-- ==== Sys2Proof/Word.lean ====
section
/-! DEFINITION. The word types of RRC and the names of its lines (00_scope.md R7, R8; 10_state.md R10 to R13). -/

namespace Sys2Proof

/-- A byte value: what one read returns, what one transmit step sends (00_scope.md R7, `ND`). -/
abbrev Byte := BitVec 8

/-- An address `0 .. 8191` (00_scope.md R7, `AW`; 20_memory.md R40). -/
abbrev Addr := BitVec 13

/-- A counter that can hold 8192 itself (00_scope.md R7, `CW`; 10_state.md R34, R36). -/
abbrev Count := BitVec 14

/-- The levels or directions of the twelve Address lines, bit `i` for line `Ai` (20_memory.md R44). -/
abbrev AddrLines := BitVec 12

/-- A command word `op, addr` (30_encoding.md R60). -/
abbrev CmdWord := BitVec 15

/-- The chunk buffer's contents (10_state.md R31). -/
abbrev Chunk := Vector Byte 16

/-- A direction register: `inp` is the spec's IN (not driven), `out` its OUT (10_state.md R11). -/
inductive Dir where
  | inp
  | out
  deriving DecidableEq, Repr, Inhabited

/-- The 22 lines of RRC by role (10_state.md R10). -/
inductive Line where
  /-- Address line `Ai`, an output. -/
  | a (i : Fin 12)
  /-- Data line `Di`, an input. -/
  | d (i : Fin 8)
  /-- Chip-enable, active low. -/
  | ce
  /-- Output-enable, active low. -/
  | oe
  deriving DecidableEq, Repr

/-- What the device behind the lines sees on one line (10_state.md R13). -/
inductive PinLevel where
  /-- Not driven by RRC: no level at all. -/
  | z
  /-- Driven at this level; `true` is 1, high. -/
  | level (b : Bool)
  /-- Driven, from a latch that nothing has written since reset: some level the spec does not give
  (40_device_interface.md R91, 93_implementation_defined.md U14). -/
  | unspecified
  deriving DecidableEq, Repr

/-- What RRC shows the environment on its output lines at one moment (20_memory.md R52): which Address
lines are driven, the levels of the driven ones, whether those levels are specified, and the Control pins. -/
structure Bus where
  aDriven : AddrLines
  aLevel : AddrLines
  aKnown : Bool
  ce : PinLevel
  oe : PinLevel
  deriving DecidableEq, Repr

/-- The operation code of a command, which register `OP` holds (30_encoding.md R60; 10_state.md R23). -/
inductive Op where
  | init
  | read
  | scan
  | dump
  deriving DecidableEq, Repr

end Sys2Proof
end

