-- ==== Sys2Proof/Config.lean ====
section
/-! DEFINITION. The parameters of RRC as a configuration record (00_scope.md R7), RRC's own record, its two open
parameters, and the free values: what the spec leaves open is an opaque constant here, so that no proof can see a
value of it. -/

namespace Sys2Proof

/-- The case of the hex digits A to F (R7, `HEXCASE`). -/
inductive HexCase where
  | upper
  | lower
  deriving DecidableEq, Repr

/-- The parameters a model takes (R7), under the spec's names. -/
structure Params where
  /-- `NA`, the number of Address lines driven. -/
  na : Nat
  /-- `ND`, the number of Data lines, the width of a byte value. -/
  nd : Nat
  /-- `ASIZE`, the addresses walked by SCAN and DUMP, and the "fully empty" sentinel. -/
  asize : Nat
  /-- `AW`, the width of an address. -/
  aw : Nat
  /-- `CW`, the width of a counter that holds `ASIZE` itself. -/
  cw : Nat
  /-- `CHUNK`, the data bytes of a data record and the stride of DUMP. -/
  chunk : Nat
  /-- `NREC`, the data records of one dump. -/
  nrec : Nat
  /-- `EMPTY`, the byte value SCAN counts as empty. -/
  empty : Byte
  /-- `T_AS`, the address-setup wait in microseconds. -/
  tAs : Nat
  /-- `T_CO`, the chip-enable to output-enable wait in microseconds. -/
  tCo : Nat
  /-- `T_DV`, the output-enable to data-valid wait in microseconds. -/
  tDv : Nat
  /-- `T_DH`, the data-hold wait in microseconds. -/
  tDh : Nat
  /-- `T_CD`, the chip-disable wait in microseconds. -/
  tCd : Nat
  /-- `HEXCASE`. -/
  hexCase : HexCase
  /-- `EOL`, the line terminator. -/
  eol : List Byte
  /-- `CLK_PER_US`, clock cycles in a microsecond. -/
  clkPerUs : Nat
  deriving DecidableEq, Repr

namespace Config

/-- The implementation's choice of line terminator, whatever it is (entry 5). -/
opaque eolChoice : List Byte

/-- Is this byte a colon or a hex digit of either case, which a terminator may not hold (30_encoding.md R67)? -/
def isRecordChar (c : Byte) : Bool :=
  c == 0x3A || (0x30 ≤ c && c ≤ 0x39) || (0x41 ≤ c && c ≤ 0x46) || (0x61 ≤ c && c ≤ 0x66)

/-- A legal terminator: 1 to 21 bytes (R67; 10_state.md R35 for the upper bound), none of them a record character. -/
def eolLegal (e : List Byte) : Bool :=
  1 ≤ e.length && e.length ≤ 21 && e.all fun c => !isRecordChar c

/-- `EOL`: the implementation's terminator where it is legal, else the default carriage return and line feed
(R7; 30_encoding.md R67). OPEN in the spec: every legal terminator is possible here (entry 5). -/
def eol : List Byte := if eolLegal eolChoice then eolChoice else [0x0D, 0x0A]

/-- The implementation's clock rate, less one (entry 6). -/
opaque clkExtra : Nat

/-- `CLK_PER_US`, clock cycles in a microsecond: OPEN in the spec, any integer from 1 on (R7). -/
def clkPerUs : Nat := clkExtra + 1

/-- The constraints of R7 on a record, and the largest one that the types of Word.lean hold, which is RRC's own
(entry 25): `NA <= AW`, `ASIZE = 2^AW`, `CHUNK` divides `ASIZE`, at most 12 lines, 13 address bits and 16 bytes. -/
def legal (p : Params) : Bool :=
  1 ≤ p.na && p.na ≤ p.aw && p.na ≤ 12 && p.nd == 8 && p.aw ≤ 13 && p.cw == p.aw + 1 && p.asize == 2 ^ p.aw &&
    1 ≤ p.chunk && p.chunk ≤ 16 && p.asize % p.chunk == 0 && p.nrec * p.chunk == p.asize && eolLegal p.eol &&
    1 ≤ p.clkPerUs

/-- RRC's values (R7), with its two open parameters. Every operation takes a record; this one is meant where none is
given. -/
def rrc : Params where
  na := 12
  nd := 8
  asize := 8192
  aw := 13
  cw := 14
  chunk := 16
  nrec := 512
  empty := 0xFF
  tAs := 10
  tCo := 10
  tDv := 100
  tDh := 10
  tCd := 10
  hexCase := .upper
  eol := eol
  clkPerUs := clkPerUs

/-- FREE VALUE (entry 3). The eight levels the environment answers on `D7..D0` at its `draw`-th sample while RRC
shows it `bus`: no rule constrains them (20_memory.md R52; 93_implementation_defined.md U1). -/
opaque level (draw : Nat) (bus : Bus) : Byte

/-- FREE VALUE (entry 12). The character at a position past the end of a record, where R143 and R144 define none. -/
opaque strayChar (pos : Nat) : Byte

/-- FREE VALUE (entry 12). The chunk buffer after a store at an index of 16 or more, where R134 defines none. -/
opaque strayStore (idx : BitVec 5) (d : Byte) (buf : Chunk) : Chunk

/-- What a cell of the reference backend `Rom(f)` reads as where nothing is listed: erased, 0xFF (entry 4;
20_memory.md R54). -/
def unlistedByte : Byte := 0xFF

end Config

end Sys2Proof
end

