-- ==== Sys2Proof/Machine/Operands.lean ====
section
/-! DEFINITION. Operand assembly, every case the spec gives (30_encoding.md R79), the hex digits (R66), the line
numbers (R69) and the op codes (R60). -/

namespace Sys2Proof.Machine

/-- The op code of a command (30_encoding.md R60). -/
def opCode : Op → BitVec 2
  | .init => 0
  | .read => 1
  | .scan => 2
  | .dump => 3

/-- The command an op code selects: all four codes are used (R60). -/
def opOfCode (c : BitVec 2) : Op :=
  if c = 0 then .init else if c = 1 then .read else if c = 2 then .scan else .dump

/-- The command word `op, addr` with `op` the more significant part (R60; 00_scope.md R8). -/
def cmdWord (o : Op) (addr : Addr) : CmdWord := opCode o ++ addr

/-- `cmd_op`, bits 14..13 of a command word (R60). -/
def cmdOp (w : CmdWord) : Op := opOfCode (w.extractLsb' 13 2)

/-- `cmd_addr`, bits 12..0 of a command word (R60). -/
def cmdAddr (w : CmdWord) : Addr := w.extractLsb' 0 13

/-- A set bit for each Address line there is, `A0` to `A(NA-1)` (00_scope.md R7; 10_state.md R10). -/
def addrMask (c : Params := Config.rrc) : AddrLines := BitVec.ofNat 12 (2 ^ c.na - 1)

/-- The levels an address puts on the Address lines: `EA(a) = a mod 2^NA`, for RRC `a[11:0]`, bit 12 dropped
(20_memory.md R42; 30_encoding.md R79 case b). -/
def effectiveAddr (a : Addr) (c : Params := Config.rrc) : AddrLines := a.setWidth 12 &&& addrMask c

/-- `CUR[12:0]`, the address SCAN reads next (41_dump_encoder.md R122). -/
def scanAddr (cur : Count) : Addr := cur.setWidth 13

/-- `(CUR + IDX)[12:0]`, the address DUMP reads next (41_dump_encoder.md R133). -/
def dumpAddr (cur : Count) (idx : BitVec 5) : Addr := (cur + idx.setWidth 14).setWidth 13

/-- `hi8(A)`, bits 15..8 of a start address zero-extended to 16 bits (30_encoding.md R64; 00_scope.md R9). -/
def hi8 (a : Count) : Byte := (a.setWidth 16).extractLsb' 8 8

/-- `lo8(A)`, bits 7..0 (R64; R9). -/
def lo8 (a : Count) : Byte := (a.setWidth 16).extractLsb' 0 8

/-- The character of the hex digit 10 (R66; `HEXCASE` of 00_scope.md R7; the ASCII codes: entry 15). -/
def letterA (c : Params := Config.rrc) : Byte :=
  match c.hexCase with
  | .upper => 0x41
  | .lower => 0x61

/-- The character of a hex digit, RRC's in upper case (R66; the ASCII codes: entry 15). -/
def digit (n : BitVec 4) (c : Params := Config.rrc) : Byte :=
  if n ≤ 9 then 0x30 + n.setWidth 8 else letterA c + (n.setWidth 8 - 10)

/-- `byte[7:4]`, the high digit's value (R66). -/
def highDigit (b : Byte) : BitVec 4 := b.extractLsb' 4 4

/-- `byte[3:0]`, the low digit's value (R66). -/
def lowDigit (b : Byte) : BitVec 4 := b.extractLsb' 0 4

/-- `hex2(b)`, two characters, the high digit first (R66). -/
def hex2 (b : Byte) (c : Params := Config.rrc) : List Byte := [digit (highDigit b) c, digit (lowDigit b) c]

/-- The value of a hex digit as a reader of the stream takes it, either case (R66, last sentence). -/
def digitValue (c : Byte) : Option (BitVec 4) :=
  if 0x30 ≤ c && c ≤ 0x39 then some ((c - 0x30).setWidth 4)
  else if 0x41 ≤ c && c ≤ 0x46 then some ((c - 0x41 + 10).setWidth 4)
  else if 0x61 ≤ c && c ≤ 0x66 then some ((c - 0x61 + 10).setWidth 4)
  else none

/-- The start marker of a record, `:` (30_encoding.md R62; the code 0x3A: entry 15). -/
def startMark : Byte := 0x3A

/-- The indices of the Address lines in ascending order (30_encoding.md R68). -/
def addrIndices (c : Params := Config.rrc) : List (Fin 12) := [0, 1, 2, 3, 4, 5, 6, 7, 8, 9, 10, 11].take c.na

/-- The indices of the Data lines in ascending order (R68). -/
def dataIndices (c : Params := Config.rrc) : List (Fin 8) := [0, 1, 2, 3, 4, 5, 6, 7].take c.nd

/-- The number of a line in events and tables (30_encoding.md R69). -/
def lineIndex : Line → Nat
  | .a i => i
  | .d i => 12 + i
  | .ce => 20
  | .oe => 21

end Sys2Proof.Machine
end

