-- ==== Sys2Proof/Machine/State.lean ====
section
/-! DEFINITION. The state of RRC (10_state.md), the environment's ports a step reads (42_dispatch_and_interfaces.md
R165), the trace of events (30_encoding.md R68), and the state after reset (10_state.md R38). -/

namespace Sys2Proof.Machine

/-- The 29 states of the FSM (30_encoding.md R76; 10_state.md R24). -/
inductive Fsm where
  | idle
  | initAm
  | initDm
  | initCl
  | initCm
  | initRet
  | rdAddr
  | rdWaitAs
  | rdCeOn
  | rdWaitCo
  | rdOeOn
  | rdWaitDv
  | rdSample
  | rdWaitDh
  | rdOeOff
  | rdCeOff
  | rdWaitCd
  | rdRet
  | scInit
  | scCall
  | scTest
  | scRet
  | duInit
  | duChunk
  | duCall
  | duStore
  | duEmit
  | duEof
  | duRet
  deriving DecidableEq, Repr

/-- What a command returns to the host (30_encoding.md R61). -/
inductive Response where
  | init
  | read (d : Byte)
  | scan (r : Count)
  | dump
  deriving DecidableEq, Repr

/-- The observable alphabet (30_encoding.md R68); a level `true` is 1. -/
inductive Event where
  /-- A command was accepted. -/
  | cmd (op : Op) (addr : Addr)
  /-- `DIR[l]` was written. -/
  | mode (l : Line) (d : Dir)
  /-- `LAT[l]` was written. -/
  | drive (l : Line) (b : Bool)
  /-- Input line `l` was read and the environment answered `b`. -/
  | sample (l : Line) (b : Bool)
  /-- A blocking delay of at least `us` microseconds. -/
  | wait (us : Nat)
  /-- A byte was handed to the sink. -/
  | tx (c : Byte)
  /-- A response was delivered. -/
  | rsp (r : Response)
  deriving DecidableEq, Repr

/-- Which oracle answers the Data lines (20_memory.md R52, R54; entry 4). -/
inductive Backend where
  /-- The unconstrained oracle of R52. -/
  | free
  /-- `Const(v)` of R54. -/
  | const (v : Byte)
  /-- `Rom(f)` of R54, `f` the cells of `State.rom`. -/
  | rom
  deriving DecidableEq, Repr

/-- The cells of a `Rom(f)` backend: (address, byte) pairs, addresses strictly rising and below 4096, no byte equal
to what an unlisted address reads as (entry 4). -/
abbrev Memory := List Host.Cell

/-- Everything the spec gives the machine, the ports it reads and the trace it leaves (INVENTORY.md, State). -/
structure State where
  /-- `ST` (10_state.md R24). -/
  st : Fsm
  /-- `OP` (R23). -/
  op : Op
  /-- `ADDR` (R21). -/
  addr : Addr
  /-- `DATA` (R22). -/
  data : Byte
  /-- `TMR` (R26; 42_dispatch_and_interfaces.md R171). -/
  tmr : Nat
  /-- `CUR` (R34). -/
  cur : Count
  /-- `IDX` (R32). -/
  idx : BitVec 5
  /-- `BUF[0..15]` (R31). -/
  buf : Chunk
  /-- `SUM` (R33). -/
  sum : Byte
  /-- `POS` (R35). -/
  pos : BitVec 6
  /-- `RES` (R36). -/
  res : Count
  /-- `DIR[A0..A11]`, a set bit is OUT (R11; 42 R165 `a_oe`). -/
  dirA : AddrLines
  /-- `DIR[D0..D7]`, a set bit is OUT, which no step writes (R37; 42 R165 `d_oe`). -/
  dirD : Byte
  /-- `DIR[CE_n]` (R11). -/
  dirCe : Dir
  /-- `DIR[OE_n]` (R11). -/
  dirOe : Dir
  /-- `LAT[A0..A11]` (R12; 42 R165 `a_out`). -/
  latA : AddrLines
  /-- `LAT[CE_n]`, `false` is asserted (R12, R15). -/
  latCe : Bool
  /-- `LAT[OE_n]`, `false` is asserted (R12, R15). -/
  latOe : Bool
  /-- The model's own: the Address latches have been written since reset (entry 2). -/
  latAKnown : Bool
  /-- The model's own: `LAT[CE_n]` has been written since reset (entry 2). -/
  latCeKnown : Bool
  /-- The model's own: `LAT[OE_n]` has been written since reset (entry 2). -/
  latOeKnown : Bool
  /-- Port `rst` (42 R165). -/
  rst : Bool
  /-- The words the host still offers, the first on `cmd_op`, `cmd_addr`; `cmd_valid` is that there is one
  (42 R160; 30_encoding.md R77; entry 8). -/
  offer : List CmdWord
  /-- Port `tx_ready` (42 R166). -/
  txReady : Bool
  /-- The environment's oracle (entry 4). -/
  backend : Backend
  /-- The cells of `Rom(f)` (entry 4). -/
  rom : Memory
  /-- How many samples the oracle has answered (entry 3). -/
  draws : Nat
  /-- The events emitted so far, oldest first (00_scope.md R9; entry 19). -/
  trace : List Event
  deriving DecidableEq, Repr

/-- There is no fault: "the set of synchronous exceptions is empty" (60_exceptions.md R180), every operation is total
(40_device_interface.md R114). Nobody raises one; the type is closed and has no constructor. -/
inductive Fault : Type
  deriving DecidableEq, Repr

/-- The reasons a step can be refused. No step is refused: every word is a legal command (30_encoding.md R60). -/
inductive Refusal where
  /-- An arm of `exec` whose instruction has no meaning yet would raise this; safe. No arm does. -/
  | notModelled (mnemonic : String)
  deriving DecidableEq, Repr

/-- The machine right after reset: `ST = IDLE`, no line driven (10_state.md R38; 70_reset_and_hazards.md R200,
R201). Registers and latches for which the spec gives no value hold 0 (DESIGN CHOICE, entry 1), the environment
offers nothing (entry 8), and the oracle is the free one (entries 3 and 4). -/
def State.reset : State where
  st := .idle
  op := .init
  addr := 0
  data := 0
  tmr := 0
  cur := 0
  idx := 0
  buf := Vector.replicate 16 0
  sum := 0
  pos := 0
  res := 0
  dirA := 0
  dirD := 0
  dirCe := .inp
  dirOe := .inp
  latA := 0
  latCe := false
  latOe := false
  latAKnown := false
  latCeKnown := false
  latOeKnown := false
  rst := false
  offer := []
  txReady := true
  backend := .free
  rom := []
  draws := 0
  trace := []

end Sys2Proof.Machine
end

