-- ==== Sys2Proof/Machine/Ops.lean ====
section
/-! DEFINITION. The named operations over the state: events, lines, waits, the sink, the response, the pins, the
oracle and its reference backends, and taking a reset (00_scope.md R9; 10_state.md R11 to R13; 20_memory.md R52,
R54; 70_reset_and_hazards.md R200). -/

namespace Sys2Proof.Machine

/-! ### Memory: the cells of a `Rom(f)` backend -/

/-- The byte at an address of the backend; an unlisted cell reads as erased (20_memory.md R54; entry 4). -/
def memRead : Memory → Nat → Byte
  | [], _ => Config.unlistedByte
  | (k, v) :: rest, a => if a = k then v else if a < k then Config.unlistedByte else memRead rest a

/-- The cells with one byte set, in canonical form. RRC has no write path (20_memory.md R41): this builds a
backend, and no step calls it. -/
def memWrite : Memory → Nat → Byte → Memory
  | [], a, v => if v = Config.unlistedByte then [] else [(a, v)]
  | (k, w) :: rest, a, v =>
    if a < k then if v = Config.unlistedByte then (k, w) :: rest else (a, v) :: (k, w) :: rest
    else if a = k then if v = Config.unlistedByte then rest else (a, v) :: rest
    else (k, w) :: memWrite rest a v

/-- Are the addresses of the list above `lo`, strictly rising and below 4096, with no unlisted byte among the values? -/
def memWfFrom : Nat → Memory → Bool
  | _, [] => true
  | lo, (k, v) :: rest => lo ≤ k && k < 4096 && v != Config.unlistedByte && memWfFrom (k + 1) rest

/-- The canonical form of a backend's cells. -/
def Memory.wf (m : Memory) : Bool := memWfFrom 0 m

/-! ### Events, waits, the sink, the response -/

/-- Add events to the trace, in the order given (00_scope.md R9). -/
def emit (es : List Event) (s : State) : State := { s with trace := s.trace ++ es }

/-- Go to the next FSM state (00_scope.md R9, `ST <- S`). -/
def goTo (f : Fsm) (s : State) : State := { s with st := f }

/-- Load the delay counter on entry to a wait of `us` microseconds (42_dispatch_and_interfaces.md R171). -/
def loadTimer (us : Nat) (s : State) (c : Params := Config.rrc) : State :=
  { s with tmr := us * c.clkPerUs - 1 }

/-- A wait state left: its event, and the counter run down to 0 (00_scope.md R9, `wait n`; R171). -/
def doWait (us : Nat) (s : State) : State := emit [.wait us] { s with tmr := 0 }

/-- Hand a byte to the sink (R9, `tx b`). -/
def transmit (c : Byte) (s : State) : State := emit [.tx c] s

/-- Deliver the response and go idle (R9, `rsp r`; 42_dispatch_and_interfaces.md R164, R168). -/
def respond (r : Response) (s : State) : State := goTo .idle (emit [.rsp r] s)

/-! ### Lines -/

/-- The events of setting the mode of all Address lines (40_device_interface.md R91). -/
def modeAddrEvents (d : Dir) (c : Params := Config.rrc) : List Event := (addrIndices c).map fun i => .mode (.a i) d

/-- The events of setting the mode of all Data lines (R92). -/
def modeDataEvents (d : Dir) (c : Params := Config.rrc) : List Event := (dataIndices c).map fun i => .mode (.d i) d

/-- The events of driving the Address lines (R100). -/
def driveAddrEvents (v : AddrLines) (c : Params := Config.rrc) : List Event :=
  (addrIndices c).map fun i => .drive (.a i) (v.getLsbD i)

/-- The events of sampling the eight Data lines (R106). -/
def sampleEvents (v : Byte) (c : Params := Config.rrc) : List Event :=
  (dataIndices c).map fun i => .sample (.d i) (v.getLsbD i)

/-- All Address lines to output mode (R91). -/
def addrLinesOut (s : State) (c : Params := Config.rrc) : State :=
  emit (modeAddrEvents .out c) { s with dirA := addrMask c }

/-- All Data lines to input mode (R92). -/
def dataLinesIn (s : State) (c : Params := Config.rrc) : State :=
  emit (modeDataEvents .inp c) { s with dirD := 0 }

/-- Both Control lines to output mode (R95). -/
def controlLinesOut (s : State) : State :=
  emit [.mode .ce .out, .mode .oe .out] { s with dirCe := .out, dirOe := .out }

/-- Write the Address latches (R100). -/
def driveAddr (v : AddrLines) (s : State) (c : Params := Config.rrc) : State :=
  emit (driveAddrEvents v c) { s with latA := v, latAKnown := true }

/-- Write `LAT[CE_n]` (R102, R109). -/
def driveCe (b : Bool) (s : State) : State := emit [.drive .ce b] { s with latCe := b, latCeKnown := true }

/-- Write `LAT[OE_n]` (R104, R108). -/
def driveOe (b : Bool) (s : State) : State := emit [.drive .oe b] { s with latOe := b, latOeKnown := true }

/-- `pin(l)` from a line's direction and latch (10_state.md R13; entry 2 for a latch nothing has written). -/
def pinOf (d : Dir) (known lat : Bool) : PinLevel :=
  match d with
  | .inp => .z
  | .out => if known then .level lat else .unspecified

/-- `DIR[l]` (10_state.md R11). -/
def dir (s : State) : Line → Dir
  | .a i => if s.dirA.getLsbD i then .out else .inp
  | .d i => if s.dirD.getLsbD i then .out else .inp
  | .ce => s.dirCe
  | .oe => s.dirOe

/-- `pin(l)`, what the device sees on a line (R13). A Data line has no latch (R12), so one that were an output
would drive no level the spec gives. -/
def pin (s : State) (l : Line) : PinLevel :=
  match l with
  | .a i => pinOf (dir s l) s.latAKnown (s.latA.getLsbD i)
  | .d _ => pinOf (dir s l) false false
  | .ce => pinOf (dir s l) s.latCeKnown s.latCe
  | .oe => pinOf (dir s l) s.latOeKnown s.latOe

/-- The output lines as the environment sees them. -/
def bus (s : State) : Bus where
  aDriven := s.dirA
  aLevel := s.latA &&& s.dirA
  aKnown := s.latAKnown
  ce := pin s .ce
  oe := pin s .oe

/-! ### The oracle -/

/-- Does the device behind a `Rom(f)` backend see itself enabled (20_memory.md R54)? -/
def deviceEnabled (s : State) (c : Params := Config.rrc) : Bool :=
  s.dirA &&& addrMask c == addrMask c && s.dirCe == .out && s.dirOe == .out && !s.latCe && !s.latOe

/-- The eight levels the environment answers at RD_SAMPLE (20_memory.md R52, R54): the free oracle's draw, or a
reference backend's byte. -/
def levels (s : State) (c : Params := Config.rrc) : Byte :=
  match s.backend with
  | .free => Config.level s.draws (bus s)
  | .const v => v
  | .rom => if deviceEnabled s c then memRead s.rom s.latA.toNat else Config.level s.draws (bus s)

/-- Sample each Data line once into `DATA` (40_device_interface.md R106). -/
def sampleData (s : State) (c : Params := Config.rrc) : State :=
  emit (sampleEvents (levels s c) c) { s with data := levels s c, draws := s.draws + 1 }

/-! ### Reset -/

/-- Taking a reset (70_reset_and_hazards.md R200, R202): whatever the state, idle with no line driven and no event.
Registers and latches are as after the first reset (10_state.md R38; entry 1); the environment, the ports and the
trace are not RRC's and stay. -/
def takeReset (s : State) : State :=
  { State.reset with
    rst := s.rst, offer := s.offer, txReady := s.txReady,
    backend := s.backend, rom := s.rom, draws := s.draws, trace := s.trace }

end Sys2Proof.Machine
end

