-- ==== Sys2Proof/Machine/DeviceInterface.lean ====
section
/-! DEFINITION. The Device Interface's seventeen states, one definition each: INIT_AM to INIT_RET
(40_device_interface.md R91 to R96) and the read sequence RD_ADDR to RD_RET (R100 to R111). -/

namespace Sys2Proof.Machine

/-- `INIT_AM` (R91): no latch is written. -/
def initAmStep (s : State) (c : Params := Config.rrc) : State :=
  goTo .initDm (addrLinesOut s c)

/-- `INIT_DM` (R92). -/
def initDmStep (s : State) (c : Params := Config.rrc) : State :=
  goTo .initCl (dataLinesIn s c)

/-- `INIT_CL` (R94): the Control latches inactive before the lines become outputs (70_reset_and_hazards.md R204). -/
def initClStep (s : State) : State := goTo .initCm (driveOe true (driveCe true s))

/-- `INIT_CM` (R95). -/
def initCmStep (s : State) : State := goTo .initRet (controlLinesOut s)

/-- `INIT_RET` (R96). -/
def initRetStep (s : State) : State := respond .init s

/-- `RD_ADDR` (R100): every latch from its bit of `ADDR`; RRC's `ADDR[12]` is read by nothing. -/
def rdAddrStep (s : State) (c : Params := Config.rrc) : State :=
  goTo .rdWaitAs (loadTimer c.tAs (driveAddr (effectiveAddr s.addr c) s c) c)

/-- `RD_WAIT_AS` (R101). -/
def rdWaitAsStep (s : State) (c : Params := Config.rrc) : State :=
  goTo .rdCeOn (doWait c.tAs s)

/-- `RD_CE_ON` (R102). -/
def rdCeOnStep (s : State) (c : Params := Config.rrc) : State :=
  goTo .rdWaitCo (loadTimer c.tCo (driveCe false s) c)

/-- `RD_WAIT_CO` (R103). -/
def rdWaitCoStep (s : State) (c : Params := Config.rrc) : State :=
  goTo .rdOeOn (doWait c.tCo s)

/-- `RD_OE_ON` (R104). -/
def rdOeOnStep (s : State) (c : Params := Config.rrc) : State :=
  goTo .rdWaitDv (loadTimer c.tDv (driveOe false s) c)

/-- `RD_WAIT_DV` (R105). -/
def rdWaitDvStep (s : State) (c : Params := Config.rrc) : State :=
  goTo .rdSample (doWait c.tDv s)

/-- `RD_SAMPLE` (R106). -/
def rdSampleStep (s : State) (c : Params := Config.rrc) : State :=
  goTo .rdWaitDh (loadTimer c.tDh (sampleData s c) c)

/-- `RD_WAIT_DH` (R107). -/
def rdWaitDhStep (s : State) (c : Params := Config.rrc) : State :=
  goTo .rdOeOff (doWait c.tDh s)

/-- `RD_OE_OFF` (R108): output-enable is released first. -/
def rdOeOffStep (s : State) : State := goTo .rdCeOff (driveOe true s)

/-- `RD_CE_OFF` (R109). -/
def rdCeOffStep (s : State) (c : Params := Config.rrc) : State :=
  goTo .rdWaitCd (loadTimer c.tCd (driveCe true s) c)

/-- `RD_WAIT_CD` (R110). -/
def rdWaitCdStep (s : State) (c : Params := Config.rrc) : State :=
  goTo .rdRet (doWait c.tCd s)

/-- `RD_RET` (R111): the return of the read sequence on `OP`. With `OP = 00`, which no run brings here, any target
is allowed, and it is IDLE (93_implementation_defined.md U19; entry 11). -/
def rdRetStep (s : State) : State :=
  match s.op with
  | .read => respond (.read s.data) s
  | .scan => goTo .scTest s
  | .dump => goTo .duStore s
  | .init => goTo .idle s

end Sys2Proof.Machine
end

