-- ==== Sys2Proof/Machine/Format.lean ====
section
/-! DEFINITION. The pure functions of the record formatter: field bytes, checksum, the characters of a data record
and of the end record (41_dump_encoder.md R140, R142 to R144; 30_encoding.md R62 to R65, R72). -/

namespace Sys2Proof.Machine

/-- The field bytes of a data record before its checksum, twenty for RRC (41_dump_encoder.md R142). -/
def fieldBytes (a : Count) (b : Chunk) (c : Params := Config.rrc) : List Byte :=
  [BitVec.ofNat 8 c.chunk, hi8 a, lo8 a, 0x00] ++ b.toList.take c.chunk

/-- Addition modulo 256 over a list of bytes, the carries dropped (R140; 10_state.md R33). -/
def sumBytes : List Byte → Byte
  | [] => 0
  | x :: xs => x + sumBytes xs

/-- `(256 - s) mod 256` (R140, R148 b). -/
def twosComplement (s : Byte) : Byte := BitVec.ofNat 8 (256 - s.toNat)

/-- The checksum byte of a data record (R140). -/
def checksum (a : Count) (b : Chunk) (c : Params := Config.rrc) : Byte :=
  twosComplement (sumBytes (fieldBytes a b c))

/-- A list of bytes as hex digits, two characters a byte (30_encoding.md R62, R66). -/
def hexAll : List Byte → (c : Params := Config.rrc) → List Byte
  | [], _ => []
  | x :: xs, c => hex2 x c ++ hexAll xs c

/-- The characters of a data record before its terminator, 43 for RRC (30_encoding.md R63). -/
def dataBody (a : Count) (b : Chunk) (c : Params := Config.rrc) : List Byte :=
  startMark :: (hexAll (fieldBytes a b c) c ++ hex2 (checksum a b c) c)

/-- A data record with its terminator (30_encoding.md R63, R73). -/
def dataText (a : Count) (b : Chunk) (c : Params := Config.rrc) : List Byte := dataBody a b c ++ c.eol

/-- The constant table of the end record's eleven characters, `:00000001FF` (30_encoding.md R65; 41_dump_encoder.md
R136). -/
def eofBody : List Byte := [0x3A, 0x30, 0x30, 0x30, 0x30, 0x30, 0x30, 0x30, 0x31, 0x46, 0x46]

/-- The end record with its terminator (R65). -/
def eofText (c : Params := Config.rrc) : List Byte := eofBody ++ c.eol

/-- The position of a data record's first checksum digit: the start mark and two characters for each field byte, 41
for RRC (30_encoding.md R62, R63). -/
def checksumAt (c : Params := Config.rrc) : Nat := 9 + 2 * c.chunk

/-- `L`, the length of a data record, `43 + len(EOL)` for RRC (30_encoding.md R62, R72). -/
def dataLength (c : Params := Config.rrc) : Nat := 11 + 2 * c.chunk + c.eol.length

/-- `LE`, the length of the end record (30_encoding.md R72). -/
def eofLength (c : Params := Config.rrc) : Nat := 11 + c.eol.length

/-- Character `p` of a data record from the running sum, by position (41_dump_encoder.md R143); past the record's
end no rule gives one, and the character is free (entry 12). -/
def datarecChar (a : Count) (b : Chunk) (sum : Byte) (p : Nat) (c : Params := Config.rrc) : Byte :=
  if p = 0 then startMark
  else if p < checksumAt c then
    let byte := (fieldBytes a b c).getD ((p - 1) / 2) 0
    if (p - 1) % 2 = 0 then digit (highDigit byte) c else digit (lowDigit byte) c
  else if p = checksumAt c then digit (highDigit (twosComplement sum)) c
  else if p = checksumAt c + 1 then digit (lowDigit (twosComplement sum)) c
  else if p < dataLength c then c.eol.getD (p - (checksumAt c + 2)) 0
  else Config.strayChar p

/-- Character `p` of the end record, by position (41_dump_encoder.md R144); past the end it is free (entry 12). -/
def eofrecChar (p : Nat) (c : Params := Config.rrc) : Byte :=
  if p ≤ 10 then eofBody.getD p 0
  else if p < eofLength c then c.eol.getD (p - 11) 0
  else Config.strayChar p

end Sys2Proof.Machine
end

