-- ==== Sys2Proof/Machine/Flags.lean ====
section
/-! DEFINITION. RRC has no flags (10_state.md R25): here are the status outputs, which are functions of the state,
the comparisons the FSM branches on (41_dump_encoder.md R148 f, R149), and the output ports
(42_dispatch_and_interfaces.md R164 to R166). -/

namespace Sys2Proof.Machine

/-- `CUR < ASIZE`, tested in SC_CALL and DU_CHUNK (41_dump_encoder.md R122, R132). -/
def curInRange (s : State) (c : Params := Config.rrc) : Bool := s.cur.toNat < c.asize

/-- `IDX < CHUNK`, tested in DU_CALL (R133). -/
def idxInRange (s : State) (c : Params := Config.rrc) : Bool := s.idx.toNat < c.chunk

/-- `DATA != EMPTY`, tested in SC_TEST (R123). -/
def dataNonEmpty (s : State) (c : Params := Config.rrc) : Bool := s.data != c.empty

/-- Is this the position of a field byte's high digit, where `SUM` takes the byte (R135)? -/
def sumsAt (p : Nat) (c : Params := Config.rrc) : Bool := p % 2 == 1 && p < checksumAt c

/-- `cmd_ready` (10_state.md R25). -/
def cmdReady (s : State) : Bool := s.st == .idle

/-- `busy` (R25). -/
def busy (s : State) : Bool := s.st != .idle

/-- Is this a state that waits for the sink (42_dispatch_and_interfaces.md R166)? -/
def emits (f : Fsm) : Bool := f == .duEmit || f == .duEof

/-- `tx_valid` (10_state.md R25), 0 in a cycle of reset (70_reset_and_hazards.md R200). -/
def txValid (s : State) : Bool := !s.rst && emits s.st

/-- `tx_data`, the character of the current position (42_dispatch_and_interfaces.md R166). -/
def txData (s : State) (c : Params := Config.rrc) : Byte :=
  if s.st = .duEof then eofrecChar s.pos.toNat c else datarecChar s.cur s.buf s.sum s.pos.toNat c

/-- The response of the current step, where there is one: `rsp_valid` is that there is one (10_state.md R25;
42_dispatch_and_interfaces.md R164). -/
def pendingResponse (s : State) : Option Response :=
  match s.st with
  | .initRet => some .init
  | .rdRet => if s.op = .read then some (.read s.data) else none
  | .scRet => some (.scan s.res)
  | .duRet => some .dump
  | _ => none

/-- The output ports (42_dispatch_and_interfaces.md R165). A value the spec promises nothing about in this cycle
is `none`: `rsp_data` but for READ, `rsp_addr` but for SCAN (30_encoding.md R61), `tx_data` without `tx_valid`
(entry 21). -/
structure Ports where
  cmdReady : Bool
  rspValid : Bool
  rspOp : Option Op
  rspData : Option Byte
  rspAddr : Option Count
  aOut : AddrLines
  aOe : AddrLines
  dOe : Byte
  ceOut : Bool
  ceOe : Dir
  oeOut : Bool
  oeOe : Dir
  txValid : Bool
  txData : Option Byte
  deriving DecidableEq, Repr

/-- The output ports in a state (R165). -/
def ports (s : State) (c : Params := Config.rrc) : Ports :=
  let r := if s.rst then none else pendingResponse s
  { cmdReady := cmdReady s
    rspValid := r.isSome
    rspOp := r.map fun _ => s.op
    rspData := match r with
      | some (.read d) => some d
      | _ => none
    rspAddr := match r with
      | some (.scan x) => some x
      | _ => none
    aOut := s.latA
    aOe := s.dirA
    dOe := s.dirD
    ceOut := s.latCe
    ceOe := s.dirCe
    oeOut := s.latOe
    oeOe := s.dirOe
    txValid := txValid s
    txData := if txValid s then some (txData s c) else none }

/-- The 6-bit code of an FSM state (30_encoding.md R76), which no output shows. -/
def fsmCode : Fsm → BitVec 6
  | .idle => 0
  | .initAm => 1
  | .initDm => 2
  | .initCl => 3
  | .initCm => 4
  | .initRet => 5
  | .rdAddr => 8
  | .rdWaitAs => 9
  | .rdCeOn => 10
  | .rdWaitCo => 11
  | .rdOeOn => 12
  | .rdWaitDv => 13
  | .rdSample => 14
  | .rdWaitDh => 15
  | .rdOeOff => 16
  | .rdCeOff => 17
  | .rdWaitCd => 18
  | .rdRet => 19
  | .scInit => 24
  | .scCall => 25
  | .scTest => 26
  | .scRet => 27
  | .duInit => 32
  | .duChunk => 33
  | .duCall => 34
  | .duStore => 35
  | .duEmit => 36
  | .duEof => 37
  | .duRet => 38

end Sys2Proof.Machine
end

