-- ==== Sys2Proof/Machine/DumpEncoder.lean ====
section
/-! DEFINITION. The Dump Encoder's eleven states, one definition each: SC_INIT to SC_RET (41_dump_encoder.md R121 to
R124) and DU_INIT to DU_RET (R131 to R137). -/

namespace Sys2Proof.Machine

/-- `SC_INIT` (R121). -/
def scInitStep (s : State) : State := goTo .scCall { s with cur := 0 }

/-- `SC_CALL` (R122): the loop test and the call of the read sequence. -/
def scCallStep (s : State) (c : Params := Config.rrc) : State :=
  if curInRange s c then goTo .rdAddr { s with addr := scanAddr s.cur }
  else goTo .scRet { s with res := BitVec.ofNat 14 c.asize }

/-- `SC_TEST` (R123): the emptiness comparison and the short-circuit exit. -/
def scTestStep (s : State) (c : Params := Config.rrc) : State :=
  if dataNonEmpty s c then goTo .scRet { s with res := s.cur }
  else goTo .scCall { s with cur := s.cur + 1 }

/-- `SC_RET` (R124). -/
def scRetStep (s : State) : State := respond (.scan s.res) s

/-- `DU_INIT` (R131). -/
def duInitStep (s : State) : State := goTo .duChunk { s with cur := 0 }

/-- `DU_CHUNK` (R132): the outer loop test. -/
def duChunkStep (s : State) (c : Params := Config.rrc) : State :=
  if curInRange s c then goTo .duCall { s with idx := 0 } else goTo .duEof { s with pos := 0 }

/-- `DU_CALL` (R133): the inner loop test and the call of the read sequence. -/
def duCallStep (s : State) (c : Params := Config.rrc) : State :=
  if idxInRange s c then goTo .rdAddr { s with addr := dumpAddr s.cur s.idx }
  else goTo .duEmit { s with sum := 0, pos := 0 }

/-- The buffer with `BUF[IDX] <- DATA` (R134); an index of 16 or more, which no run brings, leaves a buffer the
spec does not give (entry 12). -/
def storeByte (s : State) : Chunk :=
  if h : s.idx.toNat < 16 then s.buf.set s.idx.toNat s.data h else Config.strayStore s.idx s.data s.buf

/-- `DU_STORE` (R134). -/
def duStoreStep (s : State) : State := goTo .duCall { s with buf := storeByte s, idx := s.idx + 1 }

/-- `SUM` after the character at the current position: the field byte whose high digit it is added in (R135). -/
def nextSum (s : State) (c : Params := Config.rrc) : Byte :=
  if sumsAt s.pos.toNat c then s.sum + (fieldBytes s.cur s.buf c).getD ((s.pos.toNat - 1) / 2) 0 else s.sum

/-- What one transmitted character of a data record changes besides the trace (R135): `SUM`, then `CUR` at the
record's last character and `POS` before it. -/
def advanceData (s : State) (c : Params := Config.rrc) : State :=
  if s.pos.toNat = dataLength c - 1 then
    goTo .duChunk { s with sum := nextSum s c, cur := s.cur + BitVec.ofNat 14 c.chunk }
  else { s with sum := nextSum s c, pos := s.pos + 1 }

/-- `DU_EMIT` (R135): one character of the data record; held while the sink is not ready
(42_dispatch_and_interfaces.md R166). -/
def duEmitStep (s : State) (c : Params := Config.rrc) : State :=
  if s.txReady then transmit (datarecChar s.cur s.buf s.sum s.pos.toNat c) (advanceData s c) else s

/-- What one transmitted character of the end record changes besides the trace (R136). -/
def advanceEof (s : State) (c : Params := Config.rrc) : State :=
  if s.pos.toNat = eofLength c - 1 then goTo .duRet s else { s with pos := s.pos + 1 }

/-- `DU_EOF` (R136): one character of the end record; held while the sink is not ready (R166). -/
def duEofStep (s : State) (c : Params := Config.rrc) : State :=
  if s.txReady then transmit (eofrecChar s.pos.toNat c) (advanceEof s c) else s

/-- `DU_RET` (R137). -/
def duRetStep (s : State) : State := respond .dump s

end Sys2Proof.Machine
end

