-- ==== Sys2Proof/Machine/Sequencer.lean ====
section
/-! DEFINITION. The sequencer: accepting a command (42_dispatch_and_interfaces.md R160, R161), one micro-step of the
FSM, the unit of the spec's step relation (00_scope.md section 6; 60_exceptions.md R185), one clock cycle (R171), and
running a command or a record to its end. -/

namespace Sys2Proof.Machine

/-- Acceptance and dispatch (R160, R161): the event, then `OP`, for READ alone `ADDR`, and the command's first
state. -/
def accept (o : Op) (addr : Addr) (s : State) : State :=
  let t := emit [.cmd o addr] { s with op := o }
  match o with
  | .init => goTo .initAm t
  | .read => goTo .rdAddr { t with addr := addr }
  | .scan => goTo .scInit t
  | .dump => goTo .duInit t

/-- `IDLE` (R160): accept the word on the port, if there is one; a word accepted is no longer offered (entry 8). -/
def idleStep (s : State) : State :=
  match s.offer with
  | [] => s
  | w :: rest => accept (cmdOp w) (cmdAddr w) { s with offer := rest }

/-- The step of the current FSM state. -/
def fsmStep (s : State) (c : Params := Config.rrc) : State :=
  match s.st with
  | .idle => idleStep s
  | .initAm => initAmStep s c
  | .initDm => initDmStep s c
  | .initCl => initClStep s
  | .initCm => initCmStep s
  | .initRet => initRetStep s
  | .rdAddr => rdAddrStep s c
  | .rdWaitAs => rdWaitAsStep s c
  | .rdCeOn => rdCeOnStep s c
  | .rdWaitCo => rdWaitCoStep s c
  | .rdOeOn => rdOeOnStep s c
  | .rdWaitDv => rdWaitDvStep s c
  | .rdSample => rdSampleStep s c
  | .rdWaitDh => rdWaitDhStep s c
  | .rdOeOff => rdOeOffStep s
  | .rdCeOff => rdCeOffStep s c
  | .rdWaitCd => rdWaitCdStep s c
  | .rdRet => rdRetStep s
  | .scInit => scInitStep s
  | .scCall => scCallStep s c
  | .scTest => scTestStep s c
  | .scRet => scRetStep s
  | .duInit => duInitStep s
  | .duChunk => duChunkStep s c
  | .duCall => duCallStep s c
  | .duStore => duStoreStep s
  | .duEmit => duEmitStep s c
  | .duEof => duEofStep s c
  | .duRet => duRetStep s

/-- One micro-step: a reset wins over everything, else the step of the current state (60_exceptions.md R185). -/
def micro (s : State) (c : Params := Config.rrc) : State := if s.rst then takeReset s else fsmStep s c

/-- Is this one of the five wait states (40_device_interface.md R101, R103, R105, R107, R110)? -/
def waits (f : Fsm) : Bool :=
  f == .rdWaitAs || f == .rdWaitCo || f == .rdWaitDv || f == .rdWaitDh || f == .rdWaitCd

/-- One clock cycle (42_dispatch_and_interfaces.md R171): a wait state counts `TMR` down and is left in the cycle
where `TMR = 0`; every other cycle is a micro-step. -/
def cycle (s : State) (c : Params := Config.rrc) : State :=
  if !s.rst && waits s.st && s.tmr != 0 then { s with tmr := s.tmr - 1 } else micro s c

/-- `n` micro-steps. -/
def microN : Nat → State → (c : Params := Config.rrc) → State
  | 0, s, _ => s
  | n + 1, s, c => microN n (micro s c) c

/-- `n` clock cycles. -/
def cycleN : Nat → State → (c : Params := Config.rrc) → State
  | 0, s, _ => s
  | n + 1, s, c => cycleN n (cycle s c) c

/-- What the environment presents in one cycle: reset, the command port, the sink's readiness (R165, R170). -/
structure Inputs where
  rst : Bool
  cmd : Option CmdWord
  txReady : Bool
  deriving DecidableEq, Repr

/-- Present inputs: the word offered in this cycle replaces the port's. -/
def present (inp : Inputs) (s : State) : State :=
  { s with rst := inp.rst, offer := inp.cmd.toList, txReady := inp.txReady }

/-- A run under given inputs, one micro-step an input: resets in the middle of a command, offers while busy and
stalls of the sink included (R170). -/
def runInputs : List Inputs → State → (c : Params := Config.rrc) → State
  | [], s, _ => s
  | inp :: rest, s, c => runInputs rest (micro (present inp s) c) c

/-- Micro-steps while the FSM state is one that `go` keeps running, at most `n` of them. -/
def runWhile (go : Fsm → Bool) : Nat → State → (c : Params := Config.rrc) → State
  | 0, s, _ => s
  | n + 1, s, c => if go s.st then runWhile go n (micro s c) c else s

/-- Does a command in progress run on in this FSM state? The end of a run is `ST = IDLE` (R168). -/
def inProgress (f : Fsm) : Bool := f != .idle

/-- The micro-steps of INIT after acceptance (41_dump_encoder.md R150). -/
def initSteps : Nat := 5

/-- The micro-steps of READ (R150). -/
def readSteps : Nat := 12

/-- The most micro-steps of SCAN, those of the fully empty device (R150). -/
def scanSteps (c : Params := Config.rrc) : Nat := 1 + c.asize * 14 + 1 + 1

/-- The micro-steps of DUMP, holds on the sink not counted (R150). -/
def dumpSteps (c : Params := Config.rrc) : Nat :=
  1 + c.nrec * (1 + c.chunk * 14 + 1 + dataLength c) + 1 + eofLength c + 1

/-- A command offered to the machine and run for up to `n` micro-steps after its acceptance. While a reset is held
nothing is accepted (60_exceptions.md R185); while busy the offer has no effect (42_dispatch_and_interfaces.md
R162). If the sink is not ready a DUMP is left holding in DU_EMIT or DU_EOF (R166). -/
def runCommand (o : Op) (addr : Addr) (n : Nat) (s : State) (c : Params := Config.rrc) : State :=
  if s.rst then takeReset s
  else if s.st = .idle then runWhile inProgress n (accept o addr s) c
  else s

end Sys2Proof.Machine
end

