-- ==== Sys2Proof/Machine/Dump.lean ====
section
/-! DEFINITION. The meaning of DUMP (41_dump_encoder.md R130). -/

namespace Sys2Proof.Machine

/-- `DUMP` (R130): accepted, then 512 chunks of sixteen reads and a data record, then the end record; `x` is the
ignored operand. -/
def execDump (x : Addr) (s : State) (c : Params := Config.rrc) : Host.Outcome State Fault Refusal :=
  .next (runCommand .dump x (dumpSteps c) s c)

end Sys2Proof.Machine
end

