-- ==== Sys2Proof/Machine/Init.lean ====
section
/-! DEFINITION. The meaning of INIT (40_device_interface.md R90). -/

namespace Sys2Proof.Machine

/-- `INIT` (R90): accepted, then INIT_AM to INIT_RET; `x` is the ignored operand. -/
def execInit (x : Addr) (s : State) (c : Params := Config.rrc) : Host.Outcome State Fault Refusal :=
  .next (runCommand .init x initSteps s c)

end Sys2Proof.Machine
end

