-- ==== Sys2Proof/Machine/Read.lean ====
section
/-! DEFINITION. The meaning of READ (40_device_interface.md R97). -/

namespace Sys2Proof.Machine

/-- `READ a` (R93, R97): accepted, then the twelve states of the read sequence. -/
def execRead (a : Addr) (s : State) (c : Params := Config.rrc) : Host.Outcome State Fault Refusal :=
  .next (runCommand .read a readSteps s c)

end Sys2Proof.Machine
end

