-- ==== Sys2Proof/Machine/Records.lean ====
section
/-! DEFINITION. The meanings of the two record rows: what the encoder does for one data record (30_encoding.md R63,
41_dump_encoder.md R135) and for the end record (R65, R136). They are output formats and no commands: the encoder
emits them where a DUMP stands at their start, and nowhere else (entry 9). -/

namespace Sys2Proof.Machine

/-- Does the encoder stand at the start of the data record of chunk `b` at `a` (41_dump_encoder.md R133)? -/
def atDataStart (a : Count) (b : Chunk) (s : State) : Bool :=
  s.st == .duEmit && s.pos == 0 && s.sum == 0 && s.cur == a && s.buf == b

/-- Does the encoder stand at the start of the end record (R132)? -/
def atEofStart (s : State) : Bool := s.st == .duEof && s.pos == 0

/-- Run the encoder through the record it stands at, if it does: one micro-step a character. -/
def runRecord (atStart : Bool) (f : Fsm) (n : Nat) (s : State) (c : Params := Config.rrc) : State :=
  if s.rst then takeReset s else if atStart then runWhile (fun g => g == f) n s c else s

/-- The data record of chunk `b` at `a` (R63, R135). -/
def execData (a : Count) (b : Chunk) (s : State) (c : Params := Config.rrc) : Host.Outcome State Fault Refusal :=
  .next (runRecord (atDataStart a b s) .duEmit (dataLength c) s c)

/-- The end record (R65, R136). -/
def execEof (s : State) (c : Params := Config.rrc) : Host.Outcome State Fault Refusal :=
  .next (runRecord (atEofStart s) .duEof (eofLength c) s c)

end Sys2Proof.Machine
end

