-- ==== Sys2Proof/Machine/Scan.lean ====
section
/-! DEFINITION. The meaning of SCAN (41_dump_encoder.md R120). -/

namespace Sys2Proof.Machine

/-- `SCAN` (R120): accepted, then reads in ascending order to the first byte that is not empty; `x` is the ignored
operand. -/
def execScan (x : Addr) (s : State) (c : Params := Config.rrc) : Host.Outcome State Fault Refusal :=
  .next (runCommand .scan x (scanSteps c) s c)

end Sys2Proof.Machine
end

