-- ==== Sys2Proof/Syntax.lean ====
section
/-! DEFINITION. The instructions: one constructor for each row of spec/opcode_table.json. -/

namespace Sys2Proof

/-- The six rows of the opcode table. The four commands keep the 13 bits of their word's `addr` field, which only
READ uses (30_encoding.md R60); the two record formats keep what their text carries (R63, R65). -/
inductive Instr where
  /-- `INIT`, `op = 00`; `x` is the ignored `addr` field (40_device_interface.md R90). -/
  | init (x : Addr)
  /-- `READ a`, `op = 01` (40_device_interface.md R97). -/
  | read (a : Addr)
  /-- `SCAN`, `op = 10`; `x` is the ignored `addr` field (41_dump_encoder.md R120). -/
  | scan (x : Addr)
  /-- `DUMP`, `op = 11`; `x` is the ignored `addr` field (41_dump_encoder.md R130). -/
  | dump (x : Addr)
  /-- The data record of the chunk `b` read at start address `a` (30_encoding.md R63). -/
  | data (a : Count) (b : Chunk)
  /-- The end record (30_encoding.md R65). -/
  | eof
  deriving DecidableEq, Repr

end Sys2Proof
end

