-- ==== Sys2Proof/Machine/Dispatch.lean ====
section
/-! DEFINITION. One arm for each instruction: the dispatch to its meaning. -/

namespace Sys2Proof.Machine

def exec (i : Instr) (s : State) : Host.Outcome State Fault Refusal :=
  match i with
  | .init x => Sys2Proof.Machine.execInit x s
  | .read a => Sys2Proof.Machine.execRead a s
  | .scan x => Sys2Proof.Machine.execScan x s
  | .dump x => Sys2Proof.Machine.execDump x s
  | .data a b => Sys2Proof.Machine.execData a b s
  | .eof => Sys2Proof.Machine.execEof s

end Sys2Proof.Machine
end

