-- ==== Sys2Proof/WellFormed.lean ====
section
/-! DEFINITION. Which instructions are well formed: every command word is legal (30_encoding.md R60); a data record
has a start address that RRC emits (R63, R71). -/

namespace Sys2Proof

/-- A chunk start address: a multiple of 16 in `0 .. 8176` (30_encoding.md R63, R71). -/
def startAddressOk (a : Count) : Bool :=
  a.toNat % Config.rrc.chunk == 0 && a.toNat < Config.rrc.asize

/-- Every command is well formed; a data record is where its start address is one. -/
def WellFormed : Instr → Bool
  | .init _ => true
  | .read _ => true
  | .scan _ => true
  | .dump _ => true
  | .data a _ => startAddressOk a
  | .eof => true

end Sys2Proof
end

