-- ==== Sys2Proof/Decode.lean ====
section
/-! DEFINITION. The decoder and the encoder: command words (30_encoding.md R60) and record texts (R62 to R66, R72),
and the host's view of a table row as a number. -/

namespace Sys2Proof

open Machine

/-- Why a text is no record of RRC's (30_encoding.md R71: "a reader may treat them as a fault of the channel"). A
command word is never refused: every one is legal (R60). -/
inductive DecodeError where
  /-- The text does not begin with `:`. -/
  | noStartMark
  /-- A field holds a character that is no hex digit, or half a byte. -/
  | badHexDigit
  /-- The number of field bytes is not what the byte count announces. -/
  | badLength
  /-- A byte count or a record type that RRC never emits. -/
  | unknownRecord
  /-- The bytes of a data record do not sum to 0 modulo 256 (41_dump_encoder.md R140). -/
  | badChecksum
  /-- A data record whose address RRC never emits (R71). -/
  | badAddress
  /-- An end record that is not the literal of R65. -/
  | badEndRecord
  /-- The text does not end with the terminator. -/
  | badTerminator
  /-- A number that is neither a 15-bit command word nor the text of a record (entry 13). -/
  | notAWord
  deriving DecidableEq, Repr

/-- What an instruction is encoded as: a word on the command port, or a text in the output stream. -/
inductive Encoded where
  | word (w : CmdWord)
  | text (cs : List Byte)
  deriving DecidableEq, Repr

/-- The command a word stands for (30_encoding.md R60). -/
def decodeWord (w : CmdWord) : Instr :=
  match cmdOp w with
  | .init => .init (cmdAddr w)
  | .read => .read (cmdAddr w)
  | .scan => .scan (cmdAddr w)
  | .dump => .dump (cmdAddr w)

/-- Pairs of hex digits as bytes, the high digit first (30_encoding.md R66). -/
def hexPairs : List Byte → Option (List Byte)
  | [] => some []
  | [_] => none
  | h :: l :: rest =>
    match digitValue h, digitValue l, hexPairs rest with
    | some x, some y, some bs => some ((x ++ y) :: bs)
    | _, _, _ => none

/-- The record whose fields these bytes are, checksum included (30_encoding.md R62, R63, R65, R71). -/
def decodeFields : List Byte → Except DecodeError Instr
  | n :: h :: l :: ty :: rest =>
    if n = 0x10 ∧ ty = 0x00 then
      if hlen : rest.length = 17 then
        if sumBytes (n :: h :: l :: ty :: rest) ≠ 0 then .error .badChecksum
        else
          let addr : BitVec 16 := h ++ l
          if addr.toNat % Config.rrc.chunk = 0 ∧ addr.toNat < Config.rrc.asize then
            .ok (.data (addr.setWidth 14) ⟨(rest.take 16).toArray, by simp [hlen]⟩)
          else .error .badAddress
      else .error .badLength
    else if n = 0x00 ∧ ty = 0x01 then
      if n :: h :: l :: ty :: rest = [0x00, 0x00, 0x00, 0x01, 0xFF] then .ok .eof else .error .badEndRecord
    else .error .unknownRecord
  | _ => .error .badLength

/-- The record of a line without its terminator (30_encoding.md R62). -/
def decodeLine : List Byte → Except DecodeError Instr
  | [] => .error .noStartMark
  | c :: rest =>
    if c = startMark then
      match hexPairs rest with
      | some fs => decodeFields fs
      | none => .error .badHexDigit
    else .error .noStartMark

/-- The decoder: every word is a command; a text is a record where its line is one and its terminator follows. -/
def decode : Encoded → Except DecodeError Instr
  | .word w => .ok (decodeWord w)
  | .text cs =>
    if cs.drop (cs.length - Config.eol.length) = Config.eol then
      decodeLine (cs.take (cs.length - Config.eol.length))
    else .error .badTerminator

/-- The encoder, written from the tables of 30_encoding.md R60, R63 and R65. -/
def encode : Instr → Encoded
  | .init x => .word (cmdWord .init x)
  | .read a => .word (cmdWord .read a)
  | .scan x => .word (cmdWord .scan x)
  | .dump x => .word (cmdWord .dump x)
  | .data a b => .text (dataText a b)
  | .eof => .text eofText

/-- The `n` lowest bytes of a number, the lowest first: the host numbers bit 0 as the first byte's lowest bit. -/
def bytesOf : Nat → Nat → List Byte
  | 0, _ => []
  | n + 1, w => BitVec.ofNat 8 w :: bytesOf n (w / 256)

/-- The decoder on a number of `nbits` bits: up to two bytes are a command word, whose 15 bits leave the top bit 0
(entry 13); a longer one is the text of a record, with or without its terminator. -/
def decodeNumber (nbits w : Nat) : Except DecodeError Instr :=
  if nbits ≤ 16 then
    if w < 2 ^ 15 then decode (.word (BitVec.ofNat 15 w)) else .error .notAWord
  else
    let cs := bytesOf (nbits / 8) w
    match decodeLine cs with
    | .ok i => .ok i
    | .error _ => decode (.text cs)

/-- The instruction the decoder reads from a row's bits, none where it refuses. -/
def decodeTableWord (nbits w : Nat) : Option Instr :=
  match decodeNumber nbits w with
  | .ok i => some i
  | .error _ => none

end Sys2Proof
end

