-- ==== Sys2Proof/Machine/Fetch.lean ====
section
/-! DEFINITION. Which instruction the machine stands at, and placing an instruction where it stands. -/

namespace Sys2Proof.Machine

/-- The instruction the machine stands at: the word the host offers in IDLE (42_dispatch_and_interfaces.md R160), or
the record the encoder is about to emit (41_dump_encoder.md R132, R133); none in the middle of one, or while a
reset is held (60_exceptions.md R185). -/
def current (s : State) : Option Instr :=
  if s.rst then none
  else if s.st = .idle then s.offer.head?.map decodeWord
  else if atDataStart s.cur s.buf s then some (.data s.cur s.buf)
  else if atEofStart s then some .eof
  else none

/-- The state in which the current instruction runs: in IDLE the accepted word is taken off the port (entry 8). -/
def fetched (s : State) : State := if s.st = .idle then { s with offer := s.offer.tail } else s

/-- The state with an instruction placed so that the next step runs it (entry 10): a command offered in IDLE, with no
reset held; a record with a DUMP standing at its start. Bits that no decoder accepts place nothing. -/
def placed (s : State) (nbits w : Nat) : State :=
  match decodeTableWord nbits w with
  | some (.data a b) => { s with rst := false, st := .duEmit, op := .dump, cur := a, buf := b, sum := 0, pos := 0 }
  | some .eof => { s with rst := false, st := .duEof, op := .dump, pos := 0 }
  | some _ => { s with rst := false, st := .idle, offer := [BitVec.ofNat 15 w] }
  | none => { s with rst := false, st := .idle, offer := [] }

end Sys2Proof.Machine
end

