-- ==== Sys2Proof/Machine/Step.lean ====
section
/-! DEFINITION. One step of the machine at the granularity of instructions, and the host's placing of an instruction. -/

namespace Sys2Proof.Machine

/-- One step (entry 7): the instruction the machine stands at, run whole; where it stands at none, one micro-step
(in the middle of a command, in reset, or idle with nothing offered). -/
def step (s : State) : Host.Outcome State Fault Refusal :=
  match current s with
  | some i => exec i (fetched s)
  | none => .next (micro s)

/-- The state in which the next step runs the instruction of a table row's bits (entry 10). -/
def State.withFetchWord (s : State) (nbits w : Nat) : State := placed s nbits w

end Sys2Proof.Machine
end

