-- ==== Sys2Proof/Machine/HostSide.lean ====
section
/-! DEFINITION. The host's side of the command port: the assembler syntax (30_encoding.md R77) and the wrapper's two
compositions (R78). No step of RRC uses them; a program's words are what `State.offer` lists. -/

namespace Sys2Proof.Machine

/-- The value of a decimal digit. -/
def decDigit (c : Char) : Option Nat := if '0' ≤ c ∧ c ≤ '9' then some (c.toNat - 48) else none

/-- The value of a hexadecimal digit of either case. -/
def hexDigit (c : Char) : Option Nat :=
  if '0' ≤ c ∧ c ≤ '9' then some (c.toNat - 48)
  else if 'A' ≤ c ∧ c ≤ 'F' then some (c.toNat - 55)
  else if 'a' ≤ c ∧ c ≤ 'f' then some (c.toNat - 87)
  else none

/-- The number a list of digits spells in a base, the digits so far worth `acc`. -/
def spelled (digitOf : Char → Option Nat) (base : Nat) : Nat → List Char → Option Nat
  | acc, [] => some acc
  | acc, c :: cs =>
    match digitOf c with
    | some d => spelled digitOf base (acc * base + d) cs
    | none => none

/-- READ's operand, decimal or `0x` hexadecimal, 0 to 8191 (R77). -/
def parseOperand (cs : List Char) : Option Addr :=
  let n := match cs with
    | [] => none
    | '0' :: 'x' :: c :: rest => spelled hexDigit 16 0 (c :: rest)
    | c :: rest => spelled decDigit 10 0 (c :: rest)
  match n with
  | some v => if v < Config.rrc.asize then some (BitVec.ofNat 13 v) else none
  | none => none

/-- One line of a program (R77); the commands without an operand are assembled with `addr` 0 (entry 23). -/
def parseLine : List Char → Option Instr
  | ['I', 'N', 'I', 'T'] => some (.init 0)
  | ['S', 'C', 'A', 'N'] => some (.scan 0)
  | ['D', 'U', 'M', 'P'] => some (.dump 0)
  | 'R' :: 'E' :: 'A' :: 'D' :: ' ' :: operand => (parseOperand operand).map .read
  | _ => none

/-- The words of a program, one mnemonic a line, in order (R77). -/
def assemble : List (List Char) → Option (List CmdWord)
  | [] => some []
  | l :: ls =>
    match (parseLine l).map encode, assemble ls with
    | some (.word w), some ws => some (w :: ws)
    | _, _ => none

/-- The wrapper that dumps unconditionally (R78, `DUMP_ALWAYS`). -/
def dumpAlways : List CmdWord := [cmdWord .dump 0]

/-- What the wrapper that dumps only a device that is not empty offers after SCAN's response `r` (R78,
`DUMP_IF_NONEMPTY`). -/
def dumpIfNonEmpty (r : Count) : List CmdWord :=
  if r.toNat = Config.rrc.asize then [] else dumpAlways

end Sys2Proof.Machine
end

