-- ==== Sys2Proof/Safety.lean ====
section
/-! DEFINITION. The terms claims are stated in: when a command can be accepted, what the spec's big-step rules say a
command leaves (40_device_interface.md R90, R93, R97; 41_dump_encoder.md R120, R130; 30_encoding.md R63, R65), and
the invariant of the machine. -/

namespace Sys2Proof

open Machine

/-- RRC accepts a command: no reset is held and `ST = IDLE` (42_dispatch_and_interfaces.md R160). -/
def Ready (s : State) : Prop := s.rst = false ∧ s.st = .idle

/-- The lines are as a completed INIT leaves them at rest (40_device_interface.md R90 example, R116). -/
def Initialised (s : State) : Prop :=
  s.dirA = BitVec.allOnes 12 ∧ s.dirD = 0 ∧ s.dirCe = .out ∧ s.dirOe = .out ∧ s.latCe = true ∧ s.latOe = true ∧
    s.latCeKnown = true ∧ s.latOeKnown = true

/-! ### Events -/

/-- The 24 line events of INIT (40_device_interface.md R90). -/
def initEvents : List Event :=
  [.mode (.a 0) .out, .mode (.a 1) .out, .mode (.a 2) .out, .mode (.a 3) .out, .mode (.a 4) .out, .mode (.a 5) .out,
    .mode (.a 6) .out, .mode (.a 7) .out, .mode (.a 8) .out, .mode (.a 9) .out, .mode (.a 10) .out,
    .mode (.a 11) .out, .mode (.d 0) .inp, .mode (.d 1) .inp, .mode (.d 2) .inp, .mode (.d 3) .inp,
    .mode (.d 4) .inp, .mode (.d 5) .inp, .mode (.d 6) .inp, .mode (.d 7) .inp, .drive .ce true, .drive .oe true,
    .mode .ce .out, .mode .oe .out]

/-- The 29 events of `ReadByte(a)` where the environment answers `d` (40_device_interface.md R93). -/
def readEvents (a : Addr) (d : Byte) : List Event :=
  [.drive (.a 0) (a.getLsbD 0), .drive (.a 1) (a.getLsbD 1), .drive (.a 2) (a.getLsbD 2),
    .drive (.a 3) (a.getLsbD 3), .drive (.a 4) (a.getLsbD 4), .drive (.a 5) (a.getLsbD 5),
    .drive (.a 6) (a.getLsbD 6), .drive (.a 7) (a.getLsbD 7), .drive (.a 8) (a.getLsbD 8),
    .drive (.a 9) (a.getLsbD 9), .drive (.a 10) (a.getLsbD 10), .drive (.a 11) (a.getLsbD 11),
    .wait 10, .drive .ce false, .wait 10, .drive .oe false, .wait 100,
    .sample (.d 0) (d.getLsbD 0), .sample (.d 1) (d.getLsbD 1), .sample (.d 2) (d.getLsbD 2),
    .sample (.d 3) (d.getLsbD 3), .sample (.d 4) (d.getLsbD 4), .sample (.d 5) (d.getLsbD 5),
    .sample (.d 6) (d.getLsbD 6), .sample (.d 7) (d.getLsbD 7),
    .wait 10, .drive .oe true, .drive .ce true, .wait 10]

/-- The reads at `a`, `a + 1`, ... that answer the given bytes (42_dispatch_and_interfaces.md R169). -/
def readsFrom : Nat → List Byte → List Event
  | _, [] => []
  | a, d :: ds => readEvents (BitVec.ofNat 13 a) d ++ readsFrom (a + 1) ds

/-- The reads and the record of one chunk at `a`, then of the chunks after it (R169; 41_dump_encoder.md R130). -/
def chunksFrom : Nat → List Chunk → List Event
  | _, [] => []
  | a, b :: bs => readsFrom a b.toList ++ ((dataText (BitVec.ofNat 14 a) b).map .tx ++ chunksFrom (a + 16) bs)

/-- The records of the chunks at `a`, `a + 16`, ... as the sink takes them (30_encoding.md R73). -/
def recordsFrom : Nat → List Chunk → List Byte
  | _, [] => []
  | a, b :: bs => dataText (BitVec.ofNat 14 a) b ++ recordsFrom (a + 16) bs

/-- The bytes of a trace that went to the sink. -/
def sinkBytes : List Event → List Byte
  | [] => []
  | .tx c :: es => c :: sinkBytes es
  | _ :: es => sinkBytes es

/-- Does this event put a level on a line (30_encoding.md R68)? -/
def isDrive : Event → Bool
  | .drive _ _ => true
  | _ => false

/-- The levels a trace puts on lines, in order. -/
def driveEvents (es : List Event) : List Event := es.filter isDrive

/-! ### What the environment answers -/

/-- The byte the environment answers at the read at `a` that comes after `n` others since `s`, while the lines carry
`a[11:0]` and both Control lines are asserted (20_memory.md R52). -/
def answerAt (s : State) (n : Nat) (a : Addr) : Byte :=
  levels { s with
    latA := effectiveAddr a, latAKnown := true, latCe := false, latCeKnown := true, latOe := false,
    latOeKnown := true, draws := s.draws + n }

/-- The answer at address `n` of a walk from 0, which is also its `n`-th read. -/
def walkByte (s : State) (n : Nat) : Byte := answerAt s n (BitVec.ofNat 13 n)

/-- The bytes of a walk's first `n` reads (41_dump_encoder.md R120, R130). -/
def walkBytes (s : State) (n : Nat) : List Byte := (List.range n).map (walkByte s)

/-- The chunk a walk reads at start address `16 j` (R130). -/
def walkChunk (s : State) (j : Nat) : Chunk :=
  #v[walkByte s (16 * j), walkByte s (16 * j + 1), walkByte s (16 * j + 2), walkByte s (16 * j + 3),
    walkByte s (16 * j + 4), walkByte s (16 * j + 5), walkByte s (16 * j + 6), walkByte s (16 * j + 7),
    walkByte s (16 * j + 8), walkByte s (16 * j + 9), walkByte s (16 * j + 10), walkByte s (16 * j + 11),
    walkByte s (16 * j + 12), walkByte s (16 * j + 13), walkByte s (16 * j + 14), walkByte s (16 * j + 15)]

/-- The 512 chunks of a dump (R130, R145). -/
def walkChunks (s : State) : List Chunk := (List.range 512).map (walkChunk s)

/-- The least address whose byte is not empty, else the sentinel 8192 (41_dump_encoder.md R120). -/
@[irreducible] def scanResult (s : State) : Nat := ((List.range 8192).find? fun a => walkByte s a != 0xFF).getD 8192

/-- How many reads a scan makes: up to and with its result, 8192 of an empty device (R120, R125). -/
def scanReads (s : State) : Nat := min (scanResult s + 1) 8192

/-! ### What an instruction leaves: every field not named is as before -/

/-- After INIT (40_device_interface.md R90). -/
def initEnd (x : Addr) (s : State) : State :=
  { s with
    st := .idle, op := .init,
    dirA := BitVec.allOnes 12, dirD := 0, dirCe := .out, dirOe := .out,
    latCe := true, latOe := true, latCeKnown := true, latOeKnown := true,
    trace := s.trace ++ [.cmd .init x] ++ initEvents ++ [.rsp .init] }

/-- What the last of `n` reads since `s`, at `a`, leaves on the lines and in `ADDR`, `DATA` and the delay counter
(40_device_interface.md R93, R116). -/
def afterReads (n : Nat) (a : Addr) (s : State) : State :=
  { s with
    addr := a, data := answerAt s (n - 1) a, tmr := 0,
    latA := effectiveAddr a, latAKnown := true,
    latCe := true, latOe := true, latCeKnown := true, latOeKnown := true, draws := s.draws + n }

/-- After `READ a` (40_device_interface.md R97). -/
def readEnd (a : Addr) (s : State) : State :=
  { afterReads 1 a s with
    st := .idle, op := .read,
    trace := s.trace ++ [.cmd .read a] ++ readEvents a (answerAt s 0 a) ++ [.rsp (.read (answerAt s 0 a))] }

/-- After SCAN (41_dump_encoder.md R120, R125). -/
def scanEnd (x : Addr) (s : State) : State :=
  { afterReads (scanReads s) (BitVec.ofNat 13 (scanReads s - 1)) s with
    st := .idle, op := .scan, cur := BitVec.ofNat 14 (scanResult s), res := BitVec.ofNat 14 (scanResult s),
    trace := s.trace ++ [.cmd .scan x] ++ readsFrom 0 (walkBytes s (scanReads s)) ++
      [.rsp (.scan (BitVec.ofNat 14 (scanResult s)))] }

/-- After DUMP with the sink ready (41_dump_encoder.md R130; 95_test_vectors.md 2.8 for the registers left). -/
def dumpEnd (x : Addr) (s : State) : State :=
  { afterReads 8192 8191 s with
    st := .idle, op := .dump, cur := 8192, idx := 16, buf := walkChunk s 511,
    sum := sumBytes (fieldBytes 8176 (walkChunk s 511)), pos := BitVec.ofNat 6 (10 + Config.eol.length),
    trace := s.trace ++ [.cmd .dump x] ++ chunksFrom 0 (walkChunks s) ++ eofText.map .tx ++ [.rsp .dump] }

/-- After the data record the encoder stands at (30_encoding.md R63; 41_dump_encoder.md R135). -/
def dataEnd (s : State) : State :=
  { s with
    st := .duChunk, cur := s.cur + 16, sum := sumBytes (fieldBytes s.cur s.buf),
    pos := BitVec.ofNat 6 (42 + Config.eol.length), trace := s.trace ++ (dataText s.cur s.buf).map .tx }

/-- After the end record (30_encoding.md R65; 41_dump_encoder.md R136). -/
def eofEnd (s : State) : State :=
  { s with
    st := .duRet, pos := BitVec.ofNat 6 (10 + Config.eol.length), trace := s.trace ++ eofText.map .tx }

/-! ### The invariant -/

/-- Is chip-enable asserted in this FSM state (40_device_interface.md R102, R109)? -/
def chipEnabled (f : Fsm) : Bool :=
  f == .rdWaitCo || f == .rdOeOn || f == .rdWaitDv || f == .rdSample || f == .rdWaitDh || f == .rdOeOff ||
    f == .rdCeOff

/-- Is output-enable asserted in this FSM state (R104, R108)? -/
def outputEnabled (f : Fsm) : Bool := f == .rdWaitDv || f == .rdSample || f == .rdWaitDh || f == .rdOeOff

/-- The latch of a Control line follows the FSM state wherever the line is driven or the line is asserted
(R116; 70_reset_and_hazards.md R206, R208, R209). -/
def ControlOk (s : State) : Prop :=
  (chipEnabled s.st = true → s.latCe = false) ∧
  (outputEnabled s.st = true → s.latOe = false) ∧
  (s.dirCe = .out → chipEnabled s.st = false → s.latCe = true) ∧
  (s.dirOe = .out → outputEnabled s.st = false → s.latOe = true) ∧
  (s.dirCe = .out → s.latCeKnown = true) ∧
  (s.dirOe = .out → s.latOeKnown = true)

/-- Directions are legal: Data lines are never outputs, the Address lines change together, and no Control line is an
output before all Address lines are (10_state.md R14, R37; 40_device_interface.md R90). -/
def DirectionsOk (s : State) : Prop :=
  s.dirD = 0 ∧ (s.dirA = 0 ∨ s.dirA = BitVec.allOnes 12) ∧ s.dirCe = s.dirOe ∧
    (s.dirCe = .out → s.dirA = BitVec.allOnes 12)

/-- `CUR` is a chunk start address (41_dump_encoder.md R148). -/
def AtChunk (s : State) : Prop := s.cur.toNat % 16 = 0 ∧ s.cur.toNat < 8192

/-- Who called the read sequence, and for which address (40_device_interface.md R111, R112; 41_dump_encoder.md R122,
R133). -/
def CallOk (s : State) : Prop :=
  match s.op with
  | .init => False
  | .read => True
  | .scan => s.cur.toNat < 8192 ∧ s.addr = scanAddr s.cur
  | .dump => AtChunk s ∧ s.idx.toNat < 16 ∧ s.addr = dumpAddr s.cur s.idx

/-- The Address latches hold the address of the read in progress (70_reset_and_hazards.md R205). -/
def AddressHeld (s : State) : Prop := s.latA = effectiveAddr s.addr ∧ s.latAKnown = true

/-- `SUM` is the sum of the field bytes `F[k]` with `2k + 1 < POS`, which are the first `POS div 2` of them
(41_dump_encoder.md R141). -/
def SumOk (s : State) : Prop := s.sum = sumBytes ((fieldBytes s.cur s.buf).take (s.pos.toNat / 2))

/-- What holds in each FSM state of the registers it reads (10_state.md R39; 41_dump_encoder.md R141, R148). -/
def PhaseOk (s : State) : Prop :=
  match s.st with
  | .idle => True
  | .initAm => s.op = .init
  | .initDm => s.op = .init ∧ s.dirA = BitVec.allOnes 12
  | .initCl => s.op = .init ∧ s.dirA = BitVec.allOnes 12
  | .initCm => s.op = .init ∧ s.dirA = BitVec.allOnes 12 ∧ s.latCe = true ∧ s.latOe = true ∧
      s.latCeKnown = true ∧ s.latOeKnown = true
  | .initRet => s.op = .init
  | .rdAddr => CallOk s
  | .rdWaitAs => CallOk s ∧ AddressHeld s
  | .rdCeOn => CallOk s ∧ AddressHeld s
  | .rdWaitCo => CallOk s ∧ AddressHeld s
  | .rdOeOn => CallOk s ∧ AddressHeld s
  | .rdWaitDv => CallOk s ∧ AddressHeld s
  | .rdSample => CallOk s ∧ AddressHeld s
  | .rdWaitDh => CallOk s ∧ AddressHeld s
  | .rdOeOff => CallOk s ∧ AddressHeld s
  | .rdCeOff => CallOk s ∧ AddressHeld s ∧ s.latOe = true
  | .rdWaitCd => CallOk s ∧ AddressHeld s
  | .rdRet => CallOk s ∧ AddressHeld s
  | .scInit => s.op = .scan
  | .scCall => s.op = .scan ∧ s.cur.toNat ≤ 8192
  | .scTest => s.op = .scan ∧ s.cur.toNat < 8192 ∧ s.addr = scanAddr s.cur
  | .scRet => s.op = .scan ∧ s.res.toNat ≤ 8192
  | .duInit => s.op = .dump
  | .duChunk => s.op = .dump ∧ s.cur.toNat % 16 = 0 ∧ s.cur.toNat ≤ 8192
  | .duCall => s.op = .dump ∧ AtChunk s ∧ s.idx.toNat ≤ 16
  | .duStore => s.op = .dump ∧ AtChunk s ∧ s.idx.toNat < 16 ∧ s.addr = dumpAddr s.cur s.idx
  | .duEmit => s.op = .dump ∧ AtChunk s ∧ s.pos.toNat < dataLength ∧ SumOk s
  | .duEof => s.op = .dump ∧ s.cur.toNat = 8192 ∧ s.pos.toNat < eofLength
  | .duRet => s.op = .dump

/-- The invariant of the machine: the backend's cells are canonical, the directions legal, the Control lines where
the FSM put them, and every register in the range the FSM state needs. -/
def MachineInv (s : State) : Prop := s.rom.wf = true ∧ DirectionsOk s ∧ ControlOk s ∧ PhaseOk s

end Sys2Proof
end

