-- ==== Sys2Proof/Certificates/Slice0/Obligations.lean ====
section
/-! DEFINITION. The statements for the provers, each from the rule its docstring cites. The terms they use are those
of Sys2Proof/Safety.lean. -/

open Sys2Proof Sys2Proof.Machine

/-! ### Encodings -/

/-- Decoding what the encoder writes for a well-formed instruction gives it back, for every operand, every data byte
and every legal terminator (30_encoding.md R60, R62 to R67). -/
def Obligations.DecodeInvertsEncode : Prop := ∀ i : Instr, WellFormed i = true → decode (encode i) = .ok i

/-- Every 15-bit word is the encoding of exactly the command its bits 14..13 select, with all of bits 12..0 kept
(30_encoding.md R60). -/
def Obligations.EveryWordIsACommand : Prop :=
  ∀ w : CmdWord,
    encode (decodeWord w) = .word w ∧
    (w.toNat / 8192 = 0 → decodeWord w = .init (BitVec.ofNat 13 w.toNat)) ∧
    (w.toNat / 8192 = 1 → decodeWord w = .read (BitVec.ofNat 13 w.toNat)) ∧
    (w.toNat / 8192 = 2 → decodeWord w = .scan (BitVec.ofNat 13 w.toNat)) ∧
    (w.toNat / 8192 = 3 → decodeWord w = .dump (BitVec.ofNat 13 w.toNat))

/-- The command words of 95_test_vectors.md section 2.1 decode to their commands. -/
def Obligations.VectorWordsDecode : Prop :=
  decode (.word 0x0000) = .ok (.init 0) ∧ decode (.word 0x2000) = .ok (.read 0) ∧
  decode (.word 0x3005) = .ok (.read 0x1005) ∧ decode (.word 0x3FFF) = .ok (.read 8191) ∧
  decode (.word 0x4000) = .ok (.scan 0) ∧ decode (.word 0x6000) = .ok (.dump 0) ∧
  decode (.word 0x7FFF) = .ok (.dump 0x1FFF)

/-- A line that the reader accepts as a data record spells, in digits of either case, exactly the record's field
bytes and the checksum of rule R140: no wrong checksum is accepted (30_encoding.md R66, R71; 41_dump_encoder.md
R140). The reader is the model's choice, entry 14. -/
def Obligations.AcceptedDataLineCarriesItsChecksum : Prop :=
  ∀ (cs : List Byte) (a : Count) (b : Chunk), decodeLine cs = .ok (.data a b) →
    startAddressOk a = true ∧
    ∃ rest, cs = startMark :: rest ∧ hexPairs rest = some (fieldBytes a b ++ [checksum a b])

/-- The checksum is the two's complement of the sum modulo 256 of the twenty field bytes, and all twenty-one sum to 0
modulo 256 (41_dump_encoder.md R140), the field bytes written out as numbers (R142). -/
def Obligations.ChecksumLaw : Prop :=
  ∀ (a : Count) (b : Chunk),
    let fields : List Nat := [16, a.toNat / 256, a.toNat % 256, 0] ++ b.toList.map BitVec.toNat
    (checksum a b).toNat = (256 - fields.sum % 256) % 256 ∧ (fields.sum + (checksum a b).toNat) % 256 = 0

/-- The characters the formatter gives by position, from the full sum, spell the record of 30_encoding.md R63
(41_dump_encoder.md R143). -/
def Obligations.DataCharactersSpellTheRecord : Prop :=
  ∀ (a : Count) (b : Chunk) (p : Nat), p < 43 + Config.eol.length →
    (dataText a b)[p]? = some (datarecChar a b (sumBytes (fieldBytes a b)) p)

/-- The end record is the literal `:00000001FF`, byte for byte, then the terminator, and the encoder's characters by
position spell it (30_encoding.md R65; 41_dump_encoder.md R144). -/
def Obligations.EndCharactersSpellTheLiteral : Prop :=
  ∀ p : Nat, p < 11 + Config.eol.length →
    ([0x3A, 0x30, 0x30, 0x30, 0x30, 0x30, 0x30, 0x30, 0x31, 0x46, 0x46] ++ Config.eol)[p]? = some (eofrecChar p)

/-! ### Single micro-steps -/

/-- Acceptance in IDLE: the event, `OP`, for READ alone `ADDR`, the command's first state, and nothing else of RRC's;
with no command offered nothing changes (42_dispatch_and_interfaces.md R160, R161, R163). What becomes of the words
on the port is not stated here (entry 8). -/
def Obligations.AcceptanceDispatches : Prop :=
  ∀ s : State, Ready s →
    (s.offer = [] → micro s = s) ∧
    (∀ (x : Addr) (rest : List CmdWord),
      (s.offer = cmdWord .init x :: rest →
        { micro s with offer := s.offer } =
          { s with op := .init, st := .initAm, trace := s.trace ++ [.cmd .init x] }) ∧
      (s.offer = cmdWord .read x :: rest →
        { micro s with offer := s.offer } =
          { s with op := .read, addr := x, st := .rdAddr, trace := s.trace ++ [.cmd .read x] }) ∧
      (s.offer = cmdWord .scan x :: rest →
        { micro s with offer := s.offer } =
          { s with op := .scan, st := .scInit, trace := s.trace ++ [.cmd .scan x] }) ∧
      (s.offer = cmdWord .dump x :: rest →
        { micro s with offer := s.offer } =
          { s with op := .dump, st := .duInit, trace := s.trace ++ [.cmd .dump x] }))

/-- The three orderings of simultaneous events (60_exceptions.md R185): a reset wins in every state; otherwise the
step of the current state is taken; a command offered outside IDLE, the response step included, stays offered. The
first part says what a reset leaves: IDLE, all 22 lines inputs, no event, no response, no byte, no command taken; the
last that a command offered in the step that ends another is accepted in the next. The model's choices, not the
spec's: that a reset adds no event (entry 16), that it keeps the offered words (entry 24), the valid outputs while it
is held (entry 22), and that an accepted word leaves the port (entry 8). -/
def Obligations.ResetWinsOverEverything : Prop :=
  ∀ s : State,
    (s.rst = true → step s = .next (micro s) ∧ cycle s = micro s ∧ (micro s).st = .idle ∧
      (∀ l : Line, dir (micro s) l = .inp ∧ pin (micro s) l = .z) ∧ (micro s).trace = s.trace ∧
      (micro s).offer = s.offer ∧ (ports s).rspValid = false ∧ (ports s).txValid = false) ∧
    (s.rst = false → micro s = fsmStep s) ∧
    (s.rst = false → s.st ≠ .idle → (micro s).offer = s.offer) ∧
    (∀ (o : Op) (x : Addr) (rest : List CmdWord), s.rst = false → s.st ≠ .idle → s.offer = cmdWord o x :: rest →
      (micro s).st = .idle → micro (micro s) = accept o x { micro s with offer := rest })

/-- A command offered while `ST != IDLE` makes no difference to a micro-step: `cmd_ready = 0`, nothing is accepted and
the offer stays; held, it is accepted in the first cycle of IDLE, not earlier (42_dispatch_and_interfaces.md R162).
That an offer not accepted stays on the port and an accepted one leaves it is the model's choice, entry 8. -/
def Obligations.BusyAcceptsNothing : Prop :=
  ∀ (s : State) (ws : List CmdWord), s.st ≠ .idle →
    (ports s).cmdReady = false ∧
    micro { s with offer := ws } = { micro s with offer := ws } ∧
    (∀ (o : Op) (x : Addr) (n : Nat), s.rst = false → (∀ m : Nat, m < n → (microN m s).st ≠ .idle) →
      (microN n s).st = .idle → ws = [cmdWord o x] →
      microN (n + 1) { s with offer := ws } = accept o x { microN n s with offer := [] })

/-- An instruction where the machine does not stand at it leaves the machine as it is: a command while another is in
progress (42_dispatch_and_interfaces.md R162), a record whose start the encoder does not stand at; while a reset is
held every instruction is a reset (60_exceptions.md R185). The model's choice, entries 9 and 20. -/
def Obligations.InstructionOutOfPlaceHasNoEffect : Prop :=
  (∀ (s : State) (w : CmdWord), s.rst = false → s.st ≠ .idle → exec (decodeWord w) s = .next s) ∧
  (∀ (s : State) (a : Count) (b : Chunk), s.rst = false →
    (s.st ≠ .duEmit ∨ s.pos ≠ 0 ∨ s.sum ≠ 0 ∨ s.cur ≠ a ∨ s.buf ≠ b) → exec (.data a b) s = .next s) ∧
  (∀ s : State, s.rst = false → (s.st ≠ .duEof ∨ s.pos ≠ 0) → exec .eof s = .next s) ∧
  (∀ (s : State) (i : Instr), s.rst = true → exec i s = .next (micro s))

/-- The five states of INIT (40_device_interface.md R91, R92, R94, R95, R96): what each writes and emits, that INIT_CL
moves no pin of undriven Control lines, and that the pins are 1 after INIT_CM where the latches are. -/
def Obligations.InitStatesStep : Prop :=
  ∀ s : State, s.rst = false →
    (s.st = .initAm → micro s =
      { s with st := .initDm, dirA := 0xFFF, trace := s.trace ++ initEvents.take 12 }) ∧
    (s.st = .initDm → micro s =
      { s with st := .initCl, dirD := 0, trace := s.trace ++ (initEvents.drop 12).take 8 }) ∧
    (s.st = .initCl → micro s =
      { s with st := .initCm, latCe := true, latOe := true, latCeKnown := true, latOeKnown := true,
               trace := s.trace ++ [.drive .ce true, .drive .oe true] }) ∧
    (s.st = .initCm → micro s =
      { s with st := .initRet, dirCe := .out, dirOe := .out,
               trace := s.trace ++ [.mode .ce .out, .mode .oe .out] }) ∧
    (s.st = .initRet → micro s = { s with st := .idle, trace := s.trace ++ [.rsp .init] }) ∧
    (s.st = .initCl → s.dirCe = .inp → s.dirOe = .inp → ∀ l : Line, pin (micro s) l = pin s l) ∧
    (s.st = .initCm → s.latCe = true → s.latOe = true → s.latCeKnown = true → s.latOeKnown = true →
      pin (micro s) .ce = .level true ∧ pin (micro s) .oe = .level true)

/-- The sampling state and the Control line states of the read sequence (40_device_interface.md R102, R104, R106,
R108, R109), with the load of the delay counter where a wait follows (42_dispatch_and_interfaces.md R171). -/
def Obligations.ReadControlStatesStep : Prop :=
  ∀ s : State, s.rst = false →
    (s.st = .rdCeOn → micro s =
      { s with st := .rdWaitCo, latCe := false, latCeKnown := true, tmr := 10 * Config.clkPerUs - 1,
               trace := s.trace ++ [.drive .ce false] }) ∧
    (s.st = .rdOeOn → micro s =
      { s with st := .rdWaitDv, latOe := false, latOeKnown := true, tmr := 100 * Config.clkPerUs - 1,
               trace := s.trace ++ [.drive .oe false] }) ∧
    (s.st = .rdSample → micro s =
      { s with st := .rdWaitDh, data := levels s, draws := s.draws + 1, tmr := 10 * Config.clkPerUs - 1,
               trace := s.trace ++ sampleEvents (levels s) }) ∧
    (s.st = .rdOeOff → micro s =
      { s with st := .rdCeOff, latOe := true, latOeKnown := true, trace := s.trace ++ [.drive .oe true] }) ∧
    (s.st = .rdCeOff → micro s =
      { s with st := .rdWaitCd, latCe := true, latCeKnown := true, tmr := 10 * Config.clkPerUs - 1,
               trace := s.trace ++ [.drive .ce true] })

/-- `RD_ADDR` copies bit `i` of `ADDR` to latch `Ai` for `i` in 0..11, drops bit 12, and reports the twelve levels
(40_device_interface.md R100; 20_memory.md R42, R44; 30_encoding.md R79 b). -/
def Obligations.AddressReachesTheLines : Prop :=
  ∀ s : State, s.rst = false → s.st = .rdAddr →
    (micro s).st = .rdWaitAs ∧ (micro s).addr = s.addr ∧
    (∀ i : Fin 12, (micro s).latA.getLsbD i = s.addr.getLsbD i) ∧
    (micro s).latA.toNat = s.addr.toNat % 4096 ∧
    (micro s).trace = s.trace ++ (readEvents s.addr 0).take 12

/-- The four states of SCAN (41_dump_encoder.md R121 to R124). -/
def Obligations.ScanStatesStep : Prop :=
  ∀ s : State, s.rst = false →
    (s.st = .scInit → micro s = { s with st := .scCall, cur := 0 }) ∧
    (s.st = .scCall → s.cur.toNat < 8192 → micro s =
      { s with st := .rdAddr, addr := BitVec.ofNat 13 s.cur.toNat }) ∧
    (s.st = .scCall → 8192 ≤ s.cur.toNat → micro s = { s with st := .scRet, res := 8192 }) ∧
    (s.st = .scTest → s.data ≠ 0xFF → micro s = { s with st := .scRet, res := s.cur }) ∧
    (s.st = .scTest → s.data = 0xFF → micro s = { s with st := .scCall, cur := s.cur + 1 }) ∧
    (s.st = .scRet → micro s = { s with st := .idle, trace := s.trace ++ [.rsp (.scan s.res)] })

/-- The states of DUMP that send nothing (41_dump_encoder.md R131 to R134, R137). -/
def Obligations.DumpWalkStatesStep : Prop :=
  ∀ s : State, s.rst = false →
    (s.st = .duInit → micro s = { s with st := .duChunk, cur := 0 }) ∧
    (s.st = .duChunk → s.cur.toNat < 8192 → micro s = { s with st := .duCall, idx := 0 }) ∧
    (s.st = .duChunk → 8192 ≤ s.cur.toNat → micro s = { s with st := .duEof, pos := 0 }) ∧
    (s.st = .duCall → s.idx.toNat < 16 → micro s =
      { s with st := .rdAddr, addr := BitVec.ofNat 13 (s.cur.toNat + s.idx.toNat) }) ∧
    (s.st = .duCall → 16 ≤ s.idx.toNat → micro s = { s with st := .duEmit, sum := 0, pos := 0 }) ∧
    (s.st = .duStore → ∀ h : s.idx.toNat < 16, micro s =
      { s with st := .duCall, buf := s.buf.set s.idx.toNat s.data h, idx := s.idx + 1 }) ∧
    (s.st = .duRet → micro s = { s with st := .idle, trace := s.trace ++ [.rsp .dump] })

/-- `DU_EMIT`: with the sink not ready all registers stay; with it ready one character, `SUM` takes field byte `k` at
position `2k + 1`, the last position moves `CUR` to the next chunk (41_dump_encoder.md R135, R142, R143). -/
def Obligations.EmitStateSendsOneCharacter : Prop :=
  ∀ s : State, s.rst = false → s.st = .duEmit →
    (s.txReady = false → micro s = s) ∧
    (s.txReady = true → s.pos.toNat < 43 + Config.eol.length →
      ∃ (c : Byte) (sum : Byte),
        c = datarecChar s.cur s.buf s.sum s.pos.toNat ∧
        (∀ k : Nat, s.pos.toNat = 2 * k + 1 → k ≤ 19 → some sum = ((fieldBytes s.cur s.buf)[k]?).map (s.sum + ·)) ∧
        ((s.pos.toNat % 2 = 0 ∨ 39 < s.pos.toNat) → sum = s.sum) ∧
        (s.pos.toNat = 42 + Config.eol.length → micro s =
          { s with st := .duChunk, sum := sum, cur := s.cur + 16, trace := s.trace ++ [.tx c] }) ∧
        (s.pos.toNat < 42 + Config.eol.length → micro s =
          { s with sum := sum, pos := s.pos + 1, trace := s.trace ++ [.tx c] }))

/-- `DU_EOF`: with the sink not ready all registers stay; with it ready one character of the end record, whatever
`SUM`, `CUR` and `BUF` hold, and at its last position DU_RET (41_dump_encoder.md R136). -/
def Obligations.EofStateSendsOneCharacter : Prop :=
  ∀ s : State, s.rst = false → s.st = .duEof →
    (s.txReady = false → micro s = s) ∧
    (s.txReady = true → s.pos.toNat = 10 + Config.eol.length → micro s =
      { s with st := .duRet, trace := s.trace ++ [.tx (eofrecChar s.pos.toNat)] }) ∧
    (s.txReady = true → s.pos.toNat < 10 + Config.eol.length → micro s =
      { s with pos := s.pos + 1, trace := s.trace ++ [.tx (eofrecChar s.pos.toNat)] })

/-- The transmit port: in DU_EMIT and DU_EOF `tx_valid = 1` and `tx_data` is the character of the current `POS`; with
`tx_ready = 0` the machine holds unchanged for any number of cycles; with `tx_ready = 1` exactly the byte on `tx_data`
is taken; in no other state does a byte leave (42_dispatch_and_interfaces.md R166). -/
def Obligations.SinkHandshake : Prop :=
  ∀ s : State, s.rst = false →
    ((s.st = .duEmit ∨ s.st = .duEof) →
      (ports s).txValid = true ∧ (ports s).txData = some (txData s) ∧
      (s.st = .duEmit → txData s = datarecChar s.cur s.buf s.sum s.pos.toNat) ∧
      (s.st = .duEof → txData s = eofrecChar s.pos.toNat) ∧
      (s.txReady = false → ∀ n : Nat, microN n s = s ∧ cycleN n s = s) ∧
      (s.txReady = true → (micro s).trace = s.trace ++ [.tx (txData s)])) ∧
    (s.st ≠ .duEmit → s.st ≠ .duEof →
      (ports s).txValid = false ∧
      ∃ es : List Event, (micro s).trace = s.trace ++ es ∧ ∀ c : Byte, Event.tx c ∉ es)

/-- `cmd_ready`, `busy` and `tx_valid` are functions of `ST`, and `rsp_valid` is 1 exactly in the step that emits a
response, whose value is on the ports (10_state.md R25; 42_dispatch_and_interfaces.md R164). -/
def Obligations.StatusOutputsFollowTheState : Prop :=
  ∀ s : State, s.rst = false →
    ((ports s).cmdReady = true ↔ s.st = .idle) ∧ (busy s = true ↔ s.st ≠ .idle) ∧
    ((ports s).txValid = true ↔ s.st = .duEmit ∨ s.st = .duEof) ∧
    ((ports s).rspValid = true ↔ ∃ r : Response, (micro s).trace = s.trace ++ [.rsp r]) ∧
    (∀ r : Response, (micro s).trace = s.trace ++ [.rsp r] → (micro s).st = .idle ∧ (ports s).rspOp = some s.op) ∧
    (∀ d : Byte, (micro s).trace = s.trace ++ [.rsp (.read d)] → (ports s).rspData = some d ∧ d = s.data) ∧
    (∀ r : Count, (micro s).trace = s.trace ++ [.rsp (.scan r)] → (ports s).rspAddr = some r ∧ r = s.res)

/-! ### Steps and instructions -/

/-- In IDLE with a word offered a step is the execution of the command that word decodes to, the word taken off the
port (42_dispatch_and_interfaces.md R160, R161; 30_encoding.md R60). The granularity and the list of offered words are
the model's choice, entries 7 and 8. -/
def Obligations.StepRunsTheOfferedCommand : Prop :=
  ∀ (s : State) (w : CmdWord) (rest : List CmdWord), Ready s → s.offer = w :: rest →
    step s = exec (decodeWord w) { s with offer := rest }

/-- Where a DUMP stands at the start of a record a step is that record's emission (41_dump_encoder.md R132, R133); the
granularity is the model's choice, entries 7 and 9. -/
def Obligations.StepRunsTheRecordItStandsAt : Prop :=
  ∀ s : State, s.rst = false →
    (s.st = .duEmit → s.pos = 0 → s.sum = 0 → step s = exec (.data s.cur s.buf) s) ∧
    (s.st = .duEof → s.pos = 0 → step s = exec .eof s)

/-- Everywhere else a step is one micro-step: idle with nothing offered it changes nothing, in the middle of a command
it is the FSM's next transition (42_dispatch_and_interfaces.md R160; 60_exceptions.md R185; entry 7). -/
def Obligations.StepElsewhereIsAMicroStep : Prop :=
  ∀ s : State, s.rst = false →
    (s.st = .idle → s.offer = [] → step s = .next s) ∧
    (s.st ≠ .idle → s.st ≠ .duEmit → s.st ≠ .duEof → step s = .next (micro s)) ∧
    ((s.st = .duEmit ∨ s.st = .duEof) → s.pos ≠ 0 → step s = .next (micro s)) ∧
    (s.st = .duEmit → s.sum ≠ 0 → step s = .next (micro s))

/-- INIT completes in every state that accepts it, with the 25 events of rule R90 after its `Cmd`, the directions and
Control latches it gives, and every other field as before: no Address latch, no wait, no sample. -/
def Obligations.InitCompletes : Prop :=
  ∀ (s : State) (x : Addr), Ready s → exec (.init x) s = .next (initEnd x s)

/-- Idempotence of INIT (40_device_interface.md R113): a second INIT leaves the same `DIR` and `LAT` and emits the
same events; on lines already configured and inactive no pin changes its level in any micro-step of it. -/
def Obligations.InitIsIdempotent : Prop :=
  (∀ (s t u : State) (x : Addr), Ready s → exec (.init x) s = .next t → exec (.init x) t = .next u →
    u.dirA = t.dirA ∧ u.dirD = t.dirD ∧ u.dirCe = t.dirCe ∧ u.dirOe = t.dirOe ∧
    u.latA = t.latA ∧ u.latCe = t.latCe ∧ u.latOe = t.latOe ∧
    ∃ es : List Event, t.trace = s.trace ++ es ∧ u.trace = t.trace ++ es) ∧
  (∀ (s : State) (x : Addr) (n : Nat) (l : Line), Ready s → Initialised s → n ≤ 5 →
    pin (microN n (accept .init x s)) l = pin s l)

/-- INIT never pulses a Control line: where neither pin is driven low when it is accepted, neither is at any micro-step
of it (40_device_interface.md R90, R94; 70_reset_and_hazards.md R204). -/
def Obligations.InitNeverAssertsAControlLine : Prop :=
  ∀ (s : State) (x : Addr) (n : Nat), Ready s → n ≤ 5 → s.dirCe = s.dirOe →
    (s.dirCe = .out → s.latCe = true ∧ s.latOe = true) →
    pin (microN n (accept .init x s)) .ce ≠ .level false ∧ pin (microN n (accept .init x s)) .oe ≠ .level false

/-- READ completes in every state that accepts it, before INIT as well, with the 29 events of the read sequence and
the sampled byte as response; every field it does not name is as before (40_device_interface.md R93, R97). -/
def Obligations.ReadCompletes : Prop :=
  ∀ (s : State) (a : Addr), Ready s → exec (.read a) s = .next (readEnd a s)

/-- The two descriptions of the read agree (40_device_interface.md R112): from RD_ADDR the FSM goes through the twelve
states in order whatever the registers hold, and emits the 29 events of rule R93 with `d = DATA`. -/
def Obligations.ReadSequenceIsTwelveSteps : Prop :=
  ∀ s : State, s.rst = false → s.st = .rdAddr →
    (List.range 12).map (fun n => (microN n s).st) =
      [.rdAddr, .rdWaitAs, .rdCeOn, .rdWaitCo, .rdOeOn, .rdWaitDv, .rdSample, .rdWaitDh, .rdOeOff, .rdCeOff,
        .rdWaitCd, .rdRet] ∧
    (microN 11 s).trace = s.trace ++ readEvents s.addr (microN 11 s).data ∧
    (s.op = .read → (microN 12 s).st = .idle ∧
      (microN 12 s).trace = (microN 11 s).trace ++ [.rsp (.read (microN 11 s).data)]) ∧
    (s.op = .scan → (microN 12 s).st = .scTest ∧ (microN 12 s).trace = (microN 11 s).trace) ∧
    (s.op = .dump → (microN 12 s).st = .duStore ∧ (microN 12 s).trace = (microN 11 s).trace)

/-- Addresses `a` and `a + 4096` put the same levels on every line RRC drives: of the two reads from one state all
Drive events are equal, in order, the Address latches are left at `a mod 4096` and the Control latches alike, and all
22 pins are at the same level at every micro-step of them and after them (20_memory.md R42). -/
def Obligations.ReadsAliasEvery4096 : Prop :=
  ∀ (s t u : State) (a : Addr), Ready s →
    exec (.read a) s = .next t → exec (.read (a ^^^ 0x1000)) s = .next u →
    t.latA.toNat = a.toNat % 4096 ∧ t.latA = u.latA ∧ t.latCe = u.latCe ∧ t.latOe = u.latOe ∧
    (∀ l : Line, pin t l = pin u l) ∧
    (∀ (n : Nat) (l : Line), n ≤ 12 →
      pin (microN n (accept .read a s)) l = pin (microN n (accept .read (a ^^^ 0x1000) s)) l) ∧
    driveEvents (t.trace.drop s.trace.length) = driveEvents (u.trace.drop s.trace.length) ∧
    (t.trace.drop (s.trace.length + 1)).take 12 = (u.trace.drop (s.trace.length + 1)).take 12

/-- Against `Const(v)` every READ answers `v`, before INIT as well; against `Rom(f)` after INIT it answers the cell at
`a mod 4096` (20_memory.md R54; 95_test_vectors.md S1, 2.6). The backends as data are the model's choice, entry 4. -/
def Obligations.ReadAnswersTheBackend : Prop :=
  ∀ (s : State) (a : Addr), Ready s → ∃ t : State, exec (.read a) s = .next t ∧
    (∀ v : Byte, s.backend = .const v → t.data = v ∧ t.trace.getLast? = some (.rsp (.read v))) ∧
    (s.backend = .rom → Initialised s →
      t.data = memRead s.rom (a.toNat % 4096) ∧
      t.trace.getLast? = some (.rsp (.read (memRead s.rom (a.toNat % 4096)))))

/-- SCAN completes in every state that accepts it with the closed form of rule R120: reads in ascending order up to
the result, no byte to the sink, the result in `RES` and in the response, every field not named as before. -/
def Obligations.ScanCompletes : Prop :=
  ∀ (s : State) (x : Addr), Ready s → exec (.scan x) s = .next (scanEnd x s)

/-- The short-circuit property (41_dump_encoder.md R125): a result below 8192 is the least address whose sampled byte
was not 0xFF and exactly the addresses up to it were read, once each, in ascending order; the result 8192 means that
all 8192 were read and every byte was 0xFF. -/
def Obligations.ScanIsShortCircuit : Prop :=
  ∀ (s : State) (x : Addr), Ready s → ∃ (t : State) (ds : List Byte),
    exec (.scan x) s = .next t ∧ t.st = .idle ∧
    t.trace = s.trace ++ [.cmd .scan x] ++ readsFrom 0 ds ++ [.rsp (.scan t.res)] ∧
    t.res.toNat ≤ 8192 ∧
    (t.res.toNat < 8192 → ds.length = t.res.toNat + 1 ∧
      (∃ d : Byte, ds[t.res.toNat]? = some d ∧ d ≠ 0xFF) ∧
      ∀ a : Nat, a < t.res.toNat → ds[a]? = some 0xFF) ∧
    (t.res.toNat = 8192 → ds.length = 8192 ∧ ∀ d ∈ ds, d = 0xFF)

/-- SCAN against the reference backends (41_dump_encoder.md R120 b, d; 95_test_vectors.md S2, 2.7): `Const(0xFF)` gives
the sentinel after 8192 reads; after INIT a `Rom(f)` device gives the least `n < 4096` whose cell is not 0xFF, or the
sentinel, and never a value from 4096 to 8191. The backends as data are the model's choice, entry 4. -/
def Obligations.ScanOfTheReferenceBackends : Prop :=
  ∀ (s : State) (x : Addr), Ready s → ∃ t : State, exec (.scan x) s = .next t ∧
    (s.backend = .const 0xFF → t.res = 8192 ∧ t.draws = s.draws + 8192 ∧ t.data = 0xFF ∧ t.latA = 0xFFF) ∧
    (s.backend = .rom → Initialised s →
      (t.res.toNat < 4096 ∧ memRead s.rom t.res.toNat ≠ 0xFF ∧
        ∀ n : Nat, n < t.res.toNat → memRead s.rom n = 0xFF) ∨
      (t.res = 8192 ∧ ∀ n : Nat, n < 4096 → memRead s.rom n = 0xFF))

/-- DUMP completes in every state that accepts it with the sink ready, with the closed form of rule R130: per chunk
sixteen reads and then the record's characters, 512 times, then the end record, then the response; every field not
named is as before. -/
def Obligations.DumpCompletes : Prop :=
  ∀ (s : State) (x : Addr), Ready s → s.txReady = true → exec (.dump x) s = .next (dumpEnd x s)

/-- What the sink receives of one DUMP (30_encoding.md R73; 41_dump_encoder.md R145): 512 data records at 0, 16, ...,
8176 in ascending order, then the end record, `512 * (43 + len(EOL)) + 11 + len(EOL)` bytes in all; record `j` encodes
the sixteen bytes the environment answered at `16 j .. 16 j + 15`. -/
def Obligations.DumpStream : Prop :=
  ∀ (s : State) (x : Addr), Ready s → s.txReady = true → ∃ (t : State) (bs : List Chunk),
    exec (.dump x) s = .next t ∧ bs.length = 512 ∧
    sinkBytes t.trace = sinkBytes s.trace ++ (recordsFrom 0 bs ++ eofText) ∧
    (recordsFrom 0 bs ++ eofText).length = 512 * (43 + Config.eol.length) + 11 + Config.eol.length ∧
    ∀ (j : Nat) (b : Chunk), bs[j]? = some b → ∀ i : Fin 16, b[i] = walkByte s (16 * j + i)

/-- Given a fixed backend, two dumps in a row send byte-identical streams (41_dump_encoder.md R130 a, R147;
95_test_vectors.md S5). The backends as data are the model's choice, entry 4. -/
def Obligations.DumpTwiceSendsTheSameBytes : Prop :=
  ∀ (s t u : State) (x y : Addr), Ready s → s.txReady = true →
    ((∃ v : Byte, s.backend = .const v) ∨ (s.backend = .rom ∧ Initialised s)) →
    exec (.dump x) s = .next t → exec (.dump y) t = .next u →
    ∃ stream : List Byte, sinkBytes t.trace = sinkBytes s.trace ++ stream ∧
      sinkBytes u.trace = sinkBytes t.trace ++ stream

/-- With the sink not ready DUMP reads its first chunk and then holds in DU_EMIT before the first character, the
sixteen reads done and nothing sent (42_dispatch_and_interfaces.md R166; 93_implementation_defined.md U18). That the
execution ends in the hold is the model's choice, entries 7 and 8. -/
def Obligations.DumpHoldsOnASinkNotReady : Prop :=
  ∀ (s : State) (x : Addr), Ready s → s.txReady = false → ∃ t : State, exec (.dump x) s = .next t ∧
    t.st = .duEmit ∧ t.pos = 0 ∧ t.cur = 0 ∧ t.buf = walkChunk s 0 ∧
    t.trace = s.trace ++ [.cmd .dump x] ++ readsFrom 0 (walkBytes s 16) ∧ step t = .next t

/-- The data record the encoder stands at is emitted whole, with the sink ready, and every field not named is as before
(30_encoding.md R63; 41_dump_encoder.md R135, R143). Where a record row executes is the model's choice, entry 9. -/
def Obligations.DataRecordCompletes : Prop :=
  ∀ (s : State) (a : Count) (b : Chunk), s.rst = false → s.txReady = true →
    s.st = .duEmit → s.pos = 0 → s.sum = 0 → s.cur = a → s.buf = b → exec (.data a b) s = .next (dataEnd s)

/-- The end record is emitted whole, with the sink ready, whatever `SUM`, `CUR` and `BUF` hold, and every field not
named is as before (30_encoding.md R65; 41_dump_encoder.md R136, R144). Where a record row executes is the model's
choice, entry 9. -/
def Obligations.EndRecordCompletes : Prop :=
  ∀ s : State, s.rst = false → s.txReady = true → s.st = .duEof → s.pos = 0 → exec .eof s = .next (eofEnd s)

/-- The number of micro-steps of each command after its acceptance (41_dump_encoder.md R150): INIT 5, READ 12, SCAN
`1 + (r + 1) * 14 + 1` with a result `r < 8192` and 114691 with 8192, DUMP as the rule's formula, each busy before its
last step and idle after it. -/
def Obligations.StepCounts : Prop :=
  ∀ (s : State) (x : Addr), Ready s →
    let takes (o : Op) (n : Nat) : Prop :=
      exec (decodeWord (cmdWord o x)) s = .next (microN n (accept o x s)) ∧
      (microN n (accept o x s)).st = .idle ∧ ∀ m : Nat, m < n → (microN m (accept o x s)).st ≠ .idle
    takes .init 5 ∧ takes .read 12 ∧
    (scanResult s < 8192 → takes .scan (1 + (scanResult s + 1) * 14 + 1)) ∧
    (scanResult s = 8192 → takes .scan 114691) ∧
    (s.txReady = true →
      takes .dump (1 + 512 * (1 + 16 * 14 + 1 + 43 + Config.eol.length) + 1 + 11 + Config.eol.length + 1))

/-- One read lasts `140 * CLK_PER_US + 7` clock cycles from the RD_ADDR cycle through the RD_RET cycle, and those
cycles are its twelve micro-steps (42_dispatch_and_interfaces.md R171; 70_reset_and_hazards.md R215). -/
def Obligations.ReadLastsItsCycles : Prop :=
  ∀ s : State, s.rst = false → s.st = .rdAddr → cycleN (140 * Config.clkPerUs + 7) s = microN 12 s

/-! ### Whole-machine rules -/

/-- Every step and every instruction answers a next state, in every state whatever the registers hold: there is no
fault and no refusal (40_device_interface.md R114; 60_exceptions.md R180). -/
def Obligations.EveryOperationIsTotal : Prop :=
  (∀ s : State, ∃ t : State, step s = .next t) ∧ ∀ (i : Instr) (s : State), ∃ t : State, exec i s = .next t

/-- The trace is a total order that only grows: a step adds its events after all earlier ones (20_memory.md R50). -/
def Obligations.TraceOnlyGrows : Prop :=
  ∀ s t : State, step s = .next t → ∃ es : List Event, t.trace = s.trace ++ es

/-- Only INIT and reset write `DIR`: outside INIT's states a micro-step leaves all 22 directions as they are, and
READ, SCAN, DUMP and the records leave them as they were; a Data line never becomes an output (10_state.md R14). -/
def Obligations.OnlyInitAndResetWriteDirections : Prop :=
  (∀ s : State, s.rst = false → s.st ≠ .initAm → s.st ≠ .initDm → s.st ≠ .initCm →
    ∀ l : Line, dir (micro s) l = dir s l) ∧
  (∀ (s t : State) (i : Instr), s.rst = false → (∀ x : Addr, i ≠ .init x) → exec i s = .next t →
    ∀ l : Line, dir t l = dir s l) ∧
  (∀ (s t : State) (j : Fin 8), dir s (.d j) = .inp → step s = .next t → dir t (.d j) = .inp)

/-- The latches are written by exactly the states of the table in 10_state.md R37: the Address latches by RD_ADDR,
`LAT[CE_n]` by INIT_CL (1), RD_CE_ON (0) and RD_CE_OFF (1), `LAT[OE_n]` by INIT_CL (1), RD_OE_ON (0) and
RD_OE_OFF (1). -/
def Obligations.LatchesAreWrittenByTheirStates : Prop :=
  ∀ s : State, s.rst = false →
    (s.st ≠ .rdAddr → (micro s).latA = s.latA) ∧
    (s.st = .rdCeOn → (micro s).latCe = false) ∧ (s.st = .initCl ∨ s.st = .rdCeOff → (micro s).latCe = true) ∧
    (s.st ≠ .rdCeOn → s.st ≠ .initCl → s.st ≠ .rdCeOff → (micro s).latCe = s.latCe) ∧
    (s.st = .rdOeOn → (micro s).latOe = false) ∧ (s.st = .initCl ∨ s.st = .rdOeOff → (micro s).latOe = true) ∧
    (s.st ≠ .rdOeOn → s.st ≠ .initCl → s.st ≠ .rdOeOff → (micro s).latOe = s.latOe)

/-- No instruction and no step changes a byte of the device: the space is read-only, and no event drives a Data line
(20_memory.md R41). -/
def Obligations.TheSpaceIsReadOnly : Prop :=
  (∀ (i : Instr) (s t : State) (n : Nat), exec i s = .next t → memRead t.rom n = memRead s.rom n) ∧
  (∀ (s t : State) (n : Nat), step s = .next t → memRead t.rom n = memRead s.rom n) ∧
  (∀ (s t : State), step s = .next t → ∃ es : List Event, t.trace = s.trace ++ es ∧
    ∀ (j : Fin 8) (b : Bool), Event.drive (.d j) b ∉ es)

/-- The lines at rest (40_device_interface.md R116): INIT leaves them initialised, and from initialised lines READ,
SCAN and DUMP end idle with both Control latches 1, all directions as they were, and the Address latches at the
address of the most recent read. -/
def Obligations.LinesAtRest : Prop :=
  ∀ (s : State) (w : CmdWord), Ready s → s.txReady = true → ∃ t : State,
    exec (decodeWord w) s = .next t ∧ t.st = .idle ∧
    (cmdOp w = .init → Initialised t ∧ t.latA = s.latA) ∧
    (cmdOp w ≠ .init → Initialised s → Initialised t ∧ t.latAKnown = true ∧ t.latA = effectiveAddr t.addr)

/-- No command's events, response or written registers depend on what the datapath registers and the latches held
before it: nothing unwritten is read (10_state.md R38, R39). Every command writes or keeps `ST`, `OP`, the Control
latches and the directions alike; READ, SCAN and DUMP also `ADDR`, `DATA`, `TMR` and the Address latches, and each the
registers of its own. That the free oracle answers both runs alike, by the count of samples and the lines it is shown,
is the model's choice, entry 3, on which the comparison of the two rests; the values unwritten registers hold are
entry 1. -/
def Obligations.CommandsReadNothingUnwritten : Prop :=
  ∀ (s g t u : State) (w : CmdWord), Ready s → s.txReady = true →
    exec (decodeWord w) s = .next t →
    exec (decodeWord w)
      { s with
        op := g.op, addr := g.addr, data := g.data, tmr := g.tmr, cur := g.cur, idx := g.idx, buf := g.buf,
        sum := g.sum, pos := g.pos, res := g.res, latA := g.latA, latCe := g.latCe, latOe := g.latOe,
        latAKnown := g.latAKnown, latCeKnown := g.latCeKnown, latOeKnown := g.latOeKnown } = .next u →
    u.trace = t.trace ∧ u.st = t.st ∧ u.op = t.op ∧ u.draws = t.draws ∧
    u.latCe = t.latCe ∧ u.latOe = t.latOe ∧ u.latCeKnown = t.latCeKnown ∧ u.latOeKnown = t.latOeKnown ∧
    u.dirA = t.dirA ∧ u.dirD = t.dirD ∧ u.dirCe = t.dirCe ∧ u.dirOe = t.dirOe ∧
    (cmdOp w ≠ .init → u.addr = t.addr ∧ u.data = t.data ∧ u.tmr = t.tmr ∧ u.latA = t.latA ∧
      u.latAKnown = t.latAKnown ∧ ∀ l : Line, pin u l = pin t l) ∧
    (cmdOp w = .scan → u.cur = t.cur ∧ u.res = t.res) ∧
    (cmdOp w = .dump → u.cur = t.cur ∧ u.idx = t.idx ∧ u.buf = t.buf ∧ u.sum = t.sum ∧ u.pos = t.pos)

/-- The accumulator law (41_dump_encoder.md R141) is kept by every micro-step, and at positions 41 and 42 it makes
`SUM` the sum of all field bytes, so that the digits sent there are those of the checksum of rule R140. -/
def Obligations.AccumulatorLaw : Prop :=
  (∀ s : State, (s.st = .duEmit → s.pos.toNat < 43 + Config.eol.length ∧ SumOk s) →
    (micro s).st = .duEmit → (micro s).pos.toNat < 43 + Config.eol.length ∧ SumOk (micro s)) ∧
  (∀ s : State, s.st = .duEmit → SumOk s → s.pos.toNat = 41 →
    s.sum = sumBytes (fieldBytes s.cur s.buf) ∧ txData s = digit (highDigit (checksum s.cur s.buf))) ∧
  (∀ s : State, s.st = .duEmit → SumOk s → s.pos.toNat = 42 →
    s.sum = sumBytes (fieldBytes s.cur s.buf) ∧ txData s = digit (lowDigit (checksum s.cur s.buf)))

/-- Every micro-step keeps the invariant: canonical cells, legal directions, Control lines as the FSM put them,
`CUR`, `IDX`, `POS`, `SUM` and `ADDR` in their ranges (10_state.md R32, R34; 40_device_interface.md R116;
41_dump_encoder.md R141, R148). -/
def Obligations.MicroStepKeepsTheInvariant : Prop := ∀ s : State, MachineInv s → MachineInv (micro s)

/-- Every step, a whole instruction included, keeps the invariant. -/
def Obligations.StepKeepsTheInvariant : Prop := ∀ s t : State, MachineInv s → step s = .next t → MachineInv t

/-- A step under any inputs keeps it too: resets in the middle of a command, offers while busy and stalls of the sink
included (42_dispatch_and_interfaces.md R170; 70_reset_and_hazards.md R202). -/
def Obligations.InputsCannotBreakTheInvariant : Prop :=
  ∀ (inps : List Inputs) (s : State), MachineInv s → MachineInv (runInputs inps s)

/-- What reset leaves (10_state.md R38; 70_reset_and_hazards.md R200, R201): IDLE, all 22 lines inputs and so
undriven, `rsp_valid` and `tx_valid` 0, `cmd_ready` 1; and the invariant holds. -/
def Obligations.ResetState : Prop :=
  State.reset.st = .idle ∧ (∀ l : Line, dir State.reset l = .inp ∧ pin State.reset l = .z) ∧
  (ports State.reset).rspValid = false ∧ (ports State.reset).txValid = false ∧
  (ports State.reset).cmdReady = true ∧ MachineInv State.reset
end

