-- ==== Sys2Proof/Laws/Params.lean ====
section
/-! SUPPORT. RRC's own parameters (00_scope.md R7): one lemma for each parameter, the widths of the types, and the
parametric operations at RRC's record. -/

namespace Sys2Proof

/-! ### The record -/

@[simp] theorem rrc_na : Config.rrc.na = 12 := rfl
@[simp] theorem rrc_nd : Config.rrc.nd = 8 := rfl
@[simp] theorem rrc_asize : Config.rrc.asize = 8192 := rfl
@[simp] theorem rrc_chunk : Config.rrc.chunk = 16 := rfl
@[simp] theorem rrc_nrec : Config.rrc.nrec = 512 := rfl
@[simp] theorem rrc_empty : Config.rrc.empty = 0xFF := rfl
@[simp] theorem rrc_tAs : Config.rrc.tAs = 10 := rfl
@[simp] theorem rrc_tCo : Config.rrc.tCo = 10 := rfl
@[simp] theorem rrc_tDv : Config.rrc.tDv = 100 := rfl
@[simp] theorem rrc_tDh : Config.rrc.tDh = 10 := rfl
@[simp] theorem rrc_tCd : Config.rrc.tCd = 10 := rfl
@[simp] theorem rrc_hexCase : Config.rrc.hexCase = .upper := rfl
@[simp] theorem rrc_eol : Config.rrc.eol = Config.eol := rfl
@[simp] theorem rrc_clkPerUs : Config.rrc.clkPerUs = Config.clkPerUs := rfl

/-- The types of Word.lean have the widths of RRC's record: `NA` lines, `ND` data bits, `AW` and `CW`. -/
theorem rrc_widths :
    AddrLines = BitVec Config.rrc.na ∧ Byte = BitVec Config.rrc.nd ∧ Addr = BitVec Config.rrc.aw ∧
    Count = BitVec Config.rrc.cw := ⟨rfl, rfl, rfl, rfl⟩

/-- The implementation's terminator is a legal one, whichever it is (30_encoding.md R67). -/
theorem eol_legal : Config.eolLegal Config.eol = true := by
  unfold Config.eol
  split
  · assumption
  · decide

/-- RRC's record meets the constraints of R7. -/
theorem rrc_legal : Config.legal Config.rrc = true := by
  simp [Config.legal, Config.rrc, eol_legal, Config.clkPerUs]

namespace Machine

/-! ### The operations at RRC's record -/

@[simp] theorem addrMask_rrc : addrMask = BitVec.allOnes 12 := by decide

@[simp] theorem letterA_rrc : letterA = 0x41 := rfl

/-- RRC drives bits 11..0 of an address (20_memory.md R42). -/
theorem effectiveAddr_rrc (a : Addr) : effectiveAddr a = a.setWidth 12 := by
  rw [effectiveAddr, addrMask_rrc, BitVec.and_allOnes]

theorem addrIndices_rrc : addrIndices = [0, 1, 2, 3, 4, 5, 6, 7, 8, 9, 10, 11] := rfl

theorem dataIndices_rrc : dataIndices = [0, 1, 2, 3, 4, 5, 6, 7] := rfl

/-- The twenty field bytes of RRC's data record (41_dump_encoder.md R142). -/
theorem fieldBytes_rrc (a : Count) (b : Chunk) : fieldBytes a b = [0x10, hi8 a, lo8 a, 0x00] ++ b.toList := by
  simp [fieldBytes, List.take_of_length_le]

theorem dataText_rrc (a : Count) (b : Chunk) : dataText a b = dataBody a b ++ Config.eol := rfl

theorem eofText_rrc : eofText = eofBody ++ Config.eol := rfl

@[simp] theorem checksumAt_rrc : checksumAt = 41 := rfl

theorem dataLength_rrc : dataLength = 43 + Config.eol.length := rfl

theorem eofLength_rrc : eofLength = 11 + Config.eol.length := rfl

/-- RRC's data record by position, with the numbers of 41_dump_encoder.md R143. -/
theorem datarecChar_rrc (a : Count) (b : Chunk) (sum : Byte) (p : Nat) :
    datarecChar a b sum p =
      if p = 0 then startMark
      else if p < 41 then
        if (p - 1) % 2 = 0 then digit (highDigit ((fieldBytes a b).getD ((p - 1) / 2) 0))
        else digit (lowDigit ((fieldBytes a b).getD ((p - 1) / 2) 0))
      else if p = 41 then digit (highDigit (twosComplement sum))
      else if p = 42 then digit (lowDigit (twosComplement sum))
      else if p < 43 + Config.eol.length then Config.eol.getD (p - 43) 0
      else Config.strayChar p := rfl

/-- RRC's micro-steps of a dump (41_dump_encoder.md R150). -/
theorem dumpSteps_rrc :
    dumpSteps = 1 + 512 * (1 + 16 * 14 + 1 + (43 + Config.eol.length)) + 1 + (11 + Config.eol.length) + 1 := rfl

theorem scanSteps_rrc : scanSteps = 114691 := rfl

end Machine

end Sys2Proof
end

