-- ==== Sys2Proof/Laws/State.lean ====
section
/-! SUPPORT. What each field of the state is after the basic updates, one lemma per field per update. -/

namespace Sys2Proof.Machine

/-! ### emit -/

@[simp] theorem emit_st (es : List Event) (s : State) : (emit es s).st = s.st := rfl
@[simp] theorem emit_op (es : List Event) (s : State) : (emit es s).op = s.op := rfl
@[simp] theorem emit_addr (es : List Event) (s : State) : (emit es s).addr = s.addr := rfl
@[simp] theorem emit_data (es : List Event) (s : State) : (emit es s).data = s.data := rfl
@[simp] theorem emit_tmr (es : List Event) (s : State) : (emit es s).tmr = s.tmr := rfl
@[simp] theorem emit_cur (es : List Event) (s : State) : (emit es s).cur = s.cur := rfl
@[simp] theorem emit_idx (es : List Event) (s : State) : (emit es s).idx = s.idx := rfl
@[simp] theorem emit_buf (es : List Event) (s : State) : (emit es s).buf = s.buf := rfl
@[simp] theorem emit_sum (es : List Event) (s : State) : (emit es s).sum = s.sum := rfl
@[simp] theorem emit_pos (es : List Event) (s : State) : (emit es s).pos = s.pos := rfl
@[simp] theorem emit_res (es : List Event) (s : State) : (emit es s).res = s.res := rfl
@[simp] theorem emit_dirA (es : List Event) (s : State) : (emit es s).dirA = s.dirA := rfl
@[simp] theorem emit_dirD (es : List Event) (s : State) : (emit es s).dirD = s.dirD := rfl
@[simp] theorem emit_dirCe (es : List Event) (s : State) : (emit es s).dirCe = s.dirCe := rfl
@[simp] theorem emit_dirOe (es : List Event) (s : State) : (emit es s).dirOe = s.dirOe := rfl
@[simp] theorem emit_latA (es : List Event) (s : State) : (emit es s).latA = s.latA := rfl
@[simp] theorem emit_latCe (es : List Event) (s : State) : (emit es s).latCe = s.latCe := rfl
@[simp] theorem emit_latOe (es : List Event) (s : State) : (emit es s).latOe = s.latOe := rfl
@[simp] theorem emit_latAKnown (es : List Event) (s : State) : (emit es s).latAKnown = s.latAKnown := rfl
@[simp] theorem emit_latCeKnown (es : List Event) (s : State) : (emit es s).latCeKnown = s.latCeKnown := rfl
@[simp] theorem emit_latOeKnown (es : List Event) (s : State) : (emit es s).latOeKnown = s.latOeKnown := rfl
@[simp] theorem emit_rst (es : List Event) (s : State) : (emit es s).rst = s.rst := rfl
@[simp] theorem emit_offer (es : List Event) (s : State) : (emit es s).offer = s.offer := rfl
@[simp] theorem emit_txReady (es : List Event) (s : State) : (emit es s).txReady = s.txReady := rfl
@[simp] theorem emit_backend (es : List Event) (s : State) : (emit es s).backend = s.backend := rfl
@[simp] theorem emit_rom (es : List Event) (s : State) : (emit es s).rom = s.rom := rfl
@[simp] theorem emit_draws (es : List Event) (s : State) : (emit es s).draws = s.draws := rfl
@[simp] theorem emit_trace (es : List Event) (s : State) : (emit es s).trace = s.trace ++ es := rfl

/-! ### goTo -/

@[simp] theorem goTo_st (f : Fsm) (s : State) : (goTo f s).st = f := rfl
@[simp] theorem goTo_op (f : Fsm) (s : State) : (goTo f s).op = s.op := rfl
@[simp] theorem goTo_addr (f : Fsm) (s : State) : (goTo f s).addr = s.addr := rfl
@[simp] theorem goTo_data (f : Fsm) (s : State) : (goTo f s).data = s.data := rfl
@[simp] theorem goTo_tmr (f : Fsm) (s : State) : (goTo f s).tmr = s.tmr := rfl
@[simp] theorem goTo_cur (f : Fsm) (s : State) : (goTo f s).cur = s.cur := rfl
@[simp] theorem goTo_idx (f : Fsm) (s : State) : (goTo f s).idx = s.idx := rfl
@[simp] theorem goTo_buf (f : Fsm) (s : State) : (goTo f s).buf = s.buf := rfl
@[simp] theorem goTo_sum (f : Fsm) (s : State) : (goTo f s).sum = s.sum := rfl
@[simp] theorem goTo_pos (f : Fsm) (s : State) : (goTo f s).pos = s.pos := rfl
@[simp] theorem goTo_res (f : Fsm) (s : State) : (goTo f s).res = s.res := rfl
@[simp] theorem goTo_dirA (f : Fsm) (s : State) : (goTo f s).dirA = s.dirA := rfl
@[simp] theorem goTo_dirD (f : Fsm) (s : State) : (goTo f s).dirD = s.dirD := rfl
@[simp] theorem goTo_dirCe (f : Fsm) (s : State) : (goTo f s).dirCe = s.dirCe := rfl
@[simp] theorem goTo_dirOe (f : Fsm) (s : State) : (goTo f s).dirOe = s.dirOe := rfl
@[simp] theorem goTo_latA (f : Fsm) (s : State) : (goTo f s).latA = s.latA := rfl
@[simp] theorem goTo_latCe (f : Fsm) (s : State) : (goTo f s).latCe = s.latCe := rfl
@[simp] theorem goTo_latOe (f : Fsm) (s : State) : (goTo f s).latOe = s.latOe := rfl
@[simp] theorem goTo_latAKnown (f : Fsm) (s : State) : (goTo f s).latAKnown = s.latAKnown := rfl
@[simp] theorem goTo_latCeKnown (f : Fsm) (s : State) : (goTo f s).latCeKnown = s.latCeKnown := rfl
@[simp] theorem goTo_latOeKnown (f : Fsm) (s : State) : (goTo f s).latOeKnown = s.latOeKnown := rfl
@[simp] theorem goTo_rst (f : Fsm) (s : State) : (goTo f s).rst = s.rst := rfl
@[simp] theorem goTo_offer (f : Fsm) (s : State) : (goTo f s).offer = s.offer := rfl
@[simp] theorem goTo_txReady (f : Fsm) (s : State) : (goTo f s).txReady = s.txReady := rfl
@[simp] theorem goTo_backend (f : Fsm) (s : State) : (goTo f s).backend = s.backend := rfl
@[simp] theorem goTo_rom (f : Fsm) (s : State) : (goTo f s).rom = s.rom := rfl
@[simp] theorem goTo_draws (f : Fsm) (s : State) : (goTo f s).draws = s.draws := rfl
@[simp] theorem goTo_trace (f : Fsm) (s : State) : (goTo f s).trace = s.trace := rfl

/-! ### loadTimer -/

@[simp] theorem loadTimer_st (us : Nat) (s : State) (c : Params) : (loadTimer us s c).st = s.st := rfl
@[simp] theorem loadTimer_op (us : Nat) (s : State) (c : Params) : (loadTimer us s c).op = s.op := rfl
@[simp] theorem loadTimer_addr (us : Nat) (s : State) (c : Params) : (loadTimer us s c).addr = s.addr := rfl
@[simp] theorem loadTimer_data (us : Nat) (s : State) (c : Params) : (loadTimer us s c).data = s.data := rfl
@[simp] theorem loadTimer_tmr (us : Nat) (s : State) (c : Params) : (loadTimer us s c).tmr = us * c.clkPerUs - 1 := rfl
@[simp] theorem loadTimer_cur (us : Nat) (s : State) (c : Params) : (loadTimer us s c).cur = s.cur := rfl
@[simp] theorem loadTimer_idx (us : Nat) (s : State) (c : Params) : (loadTimer us s c).idx = s.idx := rfl
@[simp] theorem loadTimer_buf (us : Nat) (s : State) (c : Params) : (loadTimer us s c).buf = s.buf := rfl
@[simp] theorem loadTimer_sum (us : Nat) (s : State) (c : Params) : (loadTimer us s c).sum = s.sum := rfl
@[simp] theorem loadTimer_pos (us : Nat) (s : State) (c : Params) : (loadTimer us s c).pos = s.pos := rfl
@[simp] theorem loadTimer_res (us : Nat) (s : State) (c : Params) : (loadTimer us s c).res = s.res := rfl
@[simp] theorem loadTimer_dirA (us : Nat) (s : State) (c : Params) : (loadTimer us s c).dirA = s.dirA := rfl
@[simp] theorem loadTimer_dirD (us : Nat) (s : State) (c : Params) : (loadTimer us s c).dirD = s.dirD := rfl
@[simp] theorem loadTimer_dirCe (us : Nat) (s : State) (c : Params) : (loadTimer us s c).dirCe = s.dirCe := rfl
@[simp] theorem loadTimer_dirOe (us : Nat) (s : State) (c : Params) : (loadTimer us s c).dirOe = s.dirOe := rfl
@[simp] theorem loadTimer_latA (us : Nat) (s : State) (c : Params) : (loadTimer us s c).latA = s.latA := rfl
@[simp] theorem loadTimer_latCe (us : Nat) (s : State) (c : Params) : (loadTimer us s c).latCe = s.latCe := rfl
@[simp] theorem loadTimer_latOe (us : Nat) (s : State) (c : Params) : (loadTimer us s c).latOe = s.latOe := rfl
@[simp] theorem loadTimer_latAKnown (us : Nat) (s : State) (c : Params) :
    (loadTimer us s c).latAKnown = s.latAKnown := rfl
@[simp] theorem loadTimer_latCeKnown (us : Nat) (s : State) (c : Params) :
    (loadTimer us s c).latCeKnown = s.latCeKnown := rfl
@[simp] theorem loadTimer_latOeKnown (us : Nat) (s : State) (c : Params) :
    (loadTimer us s c).latOeKnown = s.latOeKnown := rfl
@[simp] theorem loadTimer_rst (us : Nat) (s : State) (c : Params) : (loadTimer us s c).rst = s.rst := rfl
@[simp] theorem loadTimer_offer (us : Nat) (s : State) (c : Params) : (loadTimer us s c).offer = s.offer := rfl
@[simp] theorem loadTimer_txReady (us : Nat) (s : State) (c : Params) : (loadTimer us s c).txReady = s.txReady := rfl
@[simp] theorem loadTimer_backend (us : Nat) (s : State) (c : Params) : (loadTimer us s c).backend = s.backend := rfl
@[simp] theorem loadTimer_rom (us : Nat) (s : State) (c : Params) : (loadTimer us s c).rom = s.rom := rfl
@[simp] theorem loadTimer_draws (us : Nat) (s : State) (c : Params) : (loadTimer us s c).draws = s.draws := rfl
@[simp] theorem loadTimer_trace (us : Nat) (s : State) (c : Params) : (loadTimer us s c).trace = s.trace := rfl

/-! ### takeReset -/

@[simp] theorem takeReset_st (s : State) : (takeReset s).st = .idle := rfl
@[simp] theorem takeReset_op (s : State) : (takeReset s).op = .init := rfl
@[simp] theorem takeReset_addr (s : State) : (takeReset s).addr = 0 := rfl
@[simp] theorem takeReset_data (s : State) : (takeReset s).data = 0 := rfl
@[simp] theorem takeReset_tmr (s : State) : (takeReset s).tmr = 0 := rfl
@[simp] theorem takeReset_cur (s : State) : (takeReset s).cur = 0 := rfl
@[simp] theorem takeReset_idx (s : State) : (takeReset s).idx = 0 := rfl
@[simp] theorem takeReset_buf (s : State) : (takeReset s).buf = Vector.replicate 16 0 := rfl
@[simp] theorem takeReset_sum (s : State) : (takeReset s).sum = 0 := rfl
@[simp] theorem takeReset_pos (s : State) : (takeReset s).pos = 0 := rfl
@[simp] theorem takeReset_res (s : State) : (takeReset s).res = 0 := rfl
@[simp] theorem takeReset_dirA (s : State) : (takeReset s).dirA = 0 := rfl
@[simp] theorem takeReset_dirD (s : State) : (takeReset s).dirD = 0 := rfl
@[simp] theorem takeReset_dirCe (s : State) : (takeReset s).dirCe = .inp := rfl
@[simp] theorem takeReset_dirOe (s : State) : (takeReset s).dirOe = .inp := rfl
@[simp] theorem takeReset_latA (s : State) : (takeReset s).latA = 0 := rfl
@[simp] theorem takeReset_latCe (s : State) : (takeReset s).latCe = false := rfl
@[simp] theorem takeReset_latOe (s : State) : (takeReset s).latOe = false := rfl
@[simp] theorem takeReset_latAKnown (s : State) : (takeReset s).latAKnown = false := rfl
@[simp] theorem takeReset_latCeKnown (s : State) : (takeReset s).latCeKnown = false := rfl
@[simp] theorem takeReset_latOeKnown (s : State) : (takeReset s).latOeKnown = false := rfl
@[simp] theorem takeReset_rst (s : State) : (takeReset s).rst = s.rst := rfl
@[simp] theorem takeReset_offer (s : State) : (takeReset s).offer = s.offer := rfl
@[simp] theorem takeReset_txReady (s : State) : (takeReset s).txReady = s.txReady := rfl
@[simp] theorem takeReset_backend (s : State) : (takeReset s).backend = s.backend := rfl
@[simp] theorem takeReset_rom (s : State) : (takeReset s).rom = s.rom := rfl
@[simp] theorem takeReset_draws (s : State) : (takeReset s).draws = s.draws := rfl
@[simp] theorem takeReset_trace (s : State) : (takeReset s).trace = s.trace := rfl

end Sys2Proof.Machine
end

