-- ==== Sys2Proof/Laws/Ops.lean ====
section
/-! SUPPORT. The lemmas of the shared operations: the terminator's length, the micro-step in each FSM state, running
to the end of a command, memory in canonical form. -/

namespace Sys2Proof

/-- The terminator has 1 to 21 bytes, whichever the implementation chose (30_encoding.md R67; 10_state.md R35). -/
theorem eol_length_bounds : 1 ≤ Config.eol.length ∧ Config.eol.length ≤ 21 := by
  unfold Config.eol
  split
  · rename_i h
    simp only [Config.eolLegal, Bool.and_eq_true, decide_eq_true_eq] at h
    exact h.1
  · simp

/-- No byte of the terminator is a colon or a hex digit (R67). -/
theorem eol_no_record_char : ∀ c ∈ Config.eol, Config.isRecordChar c = false := by
  unfold Config.eol
  split
  · rename_i h
    simp only [Config.eolLegal, Bool.and_eq_true, List.all_eq_true, Bool.not_eq_true'] at h
    exact h.2
  · decide

namespace Machine

/-! ### The micro-step -/

/-- All a micro-step can do: take a reset, or the step of the FSM state. -/
theorem micro_cases (s : State) {c : Params} :
    (s.rst = true ∧ micro s c = takeReset s) ∨ (s.rst = false ∧ micro s c = fsmStep s c) := by
  unfold micro
  cases s.rst <;> simp

/-- Without a reset a micro-step is the step of the FSM state (60_exceptions.md R185). -/
theorem micro_eq_fsmStep {s : State} {c : Params} (h : s.rst = false) : micro s c = fsmStep s c := by
  simp [micro, h]

/-- With a reset held a micro-step is a reset (R185). -/
theorem micro_eq_takeReset {s : State} {c : Params} (h : s.rst = true) : micro s c = takeReset s := by
  simp [micro, h]

/-! ### Runs of micro-steps -/

theorem microN_succ (n : Nat) (s : State) {c : Params} : microN (n + 1) s c = microN n (micro s c) c := rfl

theorem microN_add (m n : Nat) (s : State) {c : Params} : microN (m + n) s c = microN n (microN m s c) c := by
  induction m generalizing s with
  | zero => simp [microN]
  | succ m ih => rw [Nat.succ_add, microN_succ, microN_succ, ih]

theorem cycleN_succ (n : Nat) (s : State) {c : Params} : cycleN (n + 1) s c = cycleN n (cycle s c) c := rfl

theorem cycleN_add (m n : Nat) (s : State) {c : Params} : cycleN (m + n) s c = cycleN n (cycleN m s c) c := by
  induction m generalizing s with
  | zero => simp [cycleN]
  | succ m ih => rw [Nat.succ_add, cycleN_succ, cycleN_succ, ih]

/-- A run stops at once in a state it is not to go on from, whatever is left of its bound. -/
theorem runWhile_stop {go : Fsm → Bool} {s : State} {c : Params} (h : go s.st = false) (n : Nat) :
    runWhile go n s c = s := by
  cases n <;> simp [runWhile, h]

/-- A run goes on by one micro-step where it may. -/
theorem runWhile_go {go : Fsm → Bool} {s : State} {c : Params} (h : go s.st = true) (n : Nat) :
    runWhile go (n + 1) s c = runWhile go n (micro s c) c := by
  simp [runWhile, h]

/-- A run whose first `n` states go on is `n` micro-steps and the rest of the run. -/
theorem runWhile_microN {go : Fsm → Bool} (n m : Nat) {s : State} {c : Params}
    (h : ∀ k, k < n → go (microN k s c).st = true) : runWhile go (n + m) s c = runWhile go m (microN n s c) c := by
  induction n generalizing s with
  | zero => simp [microN]
  | succ n ih =>
    have h0 : go s.st = true := h 0 (Nat.succ_pos n)
    rw [Nat.succ_add, runWhile_go h0, ih fun k hk => h (k + 1) (Nat.succ_lt_succ hk)]
    rfl

/-- What every micro-step keeps, every run keeps. -/
theorem runWhile_keeps {P : State → Prop} {c : Params} (hP : ∀ s, P s → P (micro s c)) (go : Fsm → Bool) (n : Nat)
    {s : State} (h : P s) : P (runWhile go n s c) := by
  induction n generalizing s with
  | zero => exact h
  | succ n ih =>
    unfold runWhile
    split
    · exact ih (hP s h)
    · exact h

/-- What the micro-steps of a run keep in the states it goes on from, the run keeps. -/
theorem runWhile_keeps_of {P : State → Prop} {go : Fsm → Bool} {c : Params}
    (hP : ∀ s, go s.st = true → P s → P (micro s c)) (n : Nat) {s : State} (h : P s) : P (runWhile go n s c) := by
  induction n generalizing s with
  | zero => exact h
  | succ n ih =>
    unfold runWhile
    split
    · rename_i hg
      exact ih (hP s hg h)
    · exact h

/-- All a command offered to the machine can do: nothing but a reset while one is held, nothing while busy, else its
acceptance and a run of micro-steps. -/
theorem runCommand_cases (o : Op) (x : Addr) (n : Nat) (s : State) {c : Params} :
    (s.rst = true ∧ runCommand o x n s c = takeReset s) ∨
    (s.rst = false ∧ s.st ≠ .idle ∧ runCommand o x n s c = s) ∨
    (Ready s ∧ runCommand o x n s c = runWhile inProgress n (accept o x s) c) := by
  unfold runCommand Ready
  cases s.rst <;> by_cases h : s.st = .idle <;> simp [h]

/-- A command that is accepted (42_dispatch_and_interfaces.md R160). -/
theorem runCommand_ready {s : State} {c : Params} (h : Ready s) (o : Op) (x : Addr) (n : Nat) :
    runCommand o x n s c = runWhile inProgress n (accept o x s) c := by
  simp [runCommand, h.1, h.2]

/-- All a record can do: nothing but a reset while one is held, nothing where the encoder does not stand at its start,
else a run of micro-steps. -/
theorem runRecord_cases (b : Bool) (f : Fsm) (n : Nat) (s : State) {c : Params} :
    (s.rst = true ∧ runRecord b f n s c = takeReset s) ∨
    (s.rst = false ∧ b = false ∧ runRecord b f n s c = s) ∨
    (s.rst = false ∧ b = true ∧ runRecord b f n s c = runWhile (fun g => g == f) n s c) := by
  unfold runRecord
  cases s.rst <;> cases b <;> simp

/-! ### The comparisons of the FSM -/

theorem curInRange_iff (s : State) : curInRange s = true ↔ s.cur.toNat < 8192 := decide_eq_true_iff

theorem idxInRange_iff (s : State) : idxInRange s = true ↔ s.idx.toNat < 16 := decide_eq_true_iff

theorem dataNonEmpty_iff (s : State) : dataNonEmpty s = true ↔ s.data ≠ 0xFF := bne_iff_ne

/-- `SUM` takes a field byte at the odd positions up to 39 (41_dump_encoder.md R135). -/
theorem sumsAt_iff (p : Nat) : sumsAt p = true ↔ p % 2 = 1 ∧ p < 41 := by
  rw [sumsAt, Bool.and_eq_true, beq_iff_eq, decide_eq_true_iff, checksumAt_rrc]

/-! ### Memory: the cells of a `Rom(f)` backend -/

theorem memWfFrom_mono {m : Memory} {lo hi : Nat} (h : memWfFrom hi m = true) (hle : lo ≤ hi) :
    memWfFrom lo m = true := by
  cases m with
  | nil => rfl
  | cons c rest =>
    obtain ⟨k, v⟩ := c
    simp only [memWfFrom, Bool.and_eq_true, decide_eq_true_eq] at h ⊢
    exact ⟨⟨⟨by omega, h.1.1.2⟩, h.1.2⟩, h.2⟩

/-- An address below every listed one is unlisted. -/
theorem memRead_below {m : Memory} {lo a : Nat} (h : memWfFrom lo m = true) (ha : a < lo) :
    memRead m a = Config.unlistedByte := by
  cases m with
  | nil => rfl
  | cons c rest =>
    obtain ⟨k, v⟩ := c
    simp only [memWfFrom, Bool.and_eq_true, decide_eq_true_eq] at h
    have : a < k := by omega
    simp [memRead, this, Nat.ne_of_lt this]

theorem memWfFrom_memWrite {m : Memory} {lo a : Nat} {v : Byte} (h : memWfFrom lo m = true) (hlo : lo ≤ a)
    (ha : a < 4096) : memWfFrom lo (memWrite m a v) = true := by
  induction m generalizing lo with
  | nil =>
    unfold memWrite
    split <;> rename_i hv <;> simp [memWfFrom, hlo, ha, hv]
  | cons c rest ih =>
    obtain ⟨k, w⟩ := c
    have h' := h
    simp only [memWfFrom, Bool.and_eq_true, decide_eq_true_eq, bne_iff_ne, ne_eq] at h
    obtain ⟨⟨⟨hk, hk'⟩, hw⟩, hr⟩ := h
    unfold memWrite
    split
    · rename_i hak
      split
      · exact h'
      · rename_i hv
        have : memWfFrom (a + 1) ((k, w) :: rest) = true := by
          simp [memWfFrom, hk', hw, hr]; omega
        simp [memWfFrom, hlo, ha, hv]
        simpa [memWfFrom, hk', hw, hr] using this
    · split
      · rename_i hak hake
        subst hake
        split
        · exact memWfFrom_mono hr (by omega)
        · rename_i hv
          simp [memWfFrom, hlo, ha, hv, hr]
      · rename_i h1 h2
        simp [memWfFrom, hk, hk', hw, ih hr (by omega)]

/-- A write keeps the canonical form. -/
theorem memWrite_wf {m : Memory} {a : Nat} {v : Byte} (h : m.wf = true) (ha : a < 4096) :
    Memory.wf (memWrite m a v) = true :=
  memWfFrom_memWrite h (Nat.zero_le a) ha

theorem memRead_memWrite_from {m : Memory} {lo a b : Nat} {v : Byte} (h : memWfFrom lo m = true) :
    memRead (memWrite m a v) b = if b = a then v else memRead m b := by
  induction m generalizing lo with
  | nil =>
    unfold memWrite
    split <;> rename_i hv
    · simp [memRead, hv]
    · by_cases hb : b = a <;> simp [memRead, hb]
  | cons c rest ih =>
    obtain ⟨k, w⟩ := c
    simp only [memWfFrom, Bool.and_eq_true, decide_eq_true_eq] at h
    have hr := h.2
    unfold memWrite
    split
    · rename_i hak
      split
      · rename_i hv
        by_cases hb : b = a
        · subst hb; simp [memRead, hak, Nat.ne_of_lt hak, hv]
        · simp [hb]
      · by_cases hb : b = a
        · simp [memRead, hb]
        · by_cases hba : b < a
          · have : b < k := by omega
            simp [memRead, hb, hba, this, Nat.ne_of_lt this]
          · simp [memRead, hb, hba]
    · split
      · rename_i hak hake
        subst hake
        split
        · rename_i hv
          by_cases hb : b = a
          · subst hb
            simp [memRead_below hr (Nat.lt_succ_self b), hv]
          · by_cases hba : b < a
            · simp [memRead, hb, hba, memRead_below hr (by omega : b < a + 1)]
            · simp [memRead, hb, hba]
        · by_cases hb : b = a <;> simp [memRead, hb]
      · rename_i h1 h2
        by_cases hb : b = k
        · subst hb; simp [memRead, Ne.symm h2]
        · by_cases hbk : b < k
          · have : b ≠ a := by omega
            simp [memRead, hb, hbk, this]
          · simp [memRead, hb, hbk, ih hr]

/-- A read after a write gives the byte written at its address and the old byte everywhere else. -/
theorem memRead_memWrite {m : Memory} {a b : Nat} {v : Byte} (h : m.wf = true) :
    memRead (memWrite m a v) b = if b = a then v else memRead m b :=
  memRead_memWrite_from h

/-- Reset's memory is canonical. -/
theorem reset_rom_wf : State.reset.rom.wf = true := rfl

/-- A reset keeps the cells: they are the environment's. -/
theorem takeReset_rom_wf {s : State} (h : s.rom.wf = true) : (takeReset s).rom.wf = true := h

end Machine

end Sys2Proof
end

