-- ==== Sys2Proof/Laws/Walk.lean ====
section
/-! SUPPORT. The lemmas of the walk over the address space and of the record's pure functions: what the environment
answers, the scan's result, the events of reads, the bytes for the sink, the field bytes and their sum. -/

namespace Sys2Proof

open Machine

/-! ### The command word -/

/-- A command word is the number `8192 * op + addr` (30_encoding.md R60). -/
theorem cmdWord_toNat (o : Op) (x : Addr) : (cmdWord o x).toNat = (opCode o).toNat * 8192 + x.toNat := by
  have h : (cmdWord o x).toNat = (opCode o).toNat <<< 13 ||| x.toNat := BitVec.toNat_append ..
  rw [h, ← Nat.shiftLeft_add_eq_or_of_lt x.isLt, Nat.shiftLeft_eq]

theorem cmdAddr_cmdWord (o : Op) (x : Addr) : cmdAddr (cmdWord o x) = x := by
  apply BitVec.eq_of_toNat_eq
  have h : (cmdWord o x).toNat = (opCode o).toNat <<< 13 ||| x.toNat := BitVec.toNat_append ..
  have hx := x.isLt
  simp only [cmdAddr, BitVec.extractLsb'_toNat, h, Nat.shiftRight_zero]
  rw [← Nat.shiftLeft_add_eq_or_of_lt hx, Nat.shiftLeft_eq]
  omega

theorem cmdOp_cmdWord (o : Op) (x : Addr) : cmdOp (cmdWord o x) = o := by
  have h : (cmdWord o x).toNat = (opCode o).toNat <<< 13 ||| x.toNat := BitVec.toNat_append ..
  have hx := x.isLt
  have ho := (opCode o).isLt
  have : (cmdWord o x).extractLsb' 13 2 = opCode o := by
    apply BitVec.eq_of_toNat_eq
    rw [← Nat.shiftLeft_add_eq_or_of_lt hx, Nat.shiftLeft_eq] at h
    simp only [BitVec.extractLsb'_toNat, h, Nat.shiftRight_eq_div_pow]
    omega
  rw [cmdOp, this]
  cases o <;> rfl

/-! ### What the environment answers -/

/-- The environment's answer depends on the backend, its cells, the draw and the directions alone. -/
theorem answerAt_congr {s t : State} (n : Nat) (a : Addr) (hb : s.backend = t.backend) (hm : s.rom = t.rom)
    (hd : s.draws = t.draws) (ha : s.dirA = t.dirA) (hc : s.dirCe = t.dirCe) (ho : s.dirOe = t.dirOe) :
    answerAt s n a = answerAt t n a := by
  simp [answerAt, levels, bus, pin, pinOf, dir, deviceEnabled, hb, hm, hd, ha, hc, ho]

/-- `Const(v)` answers `v` (20_memory.md R54). -/
theorem answerAt_const {s : State} {v : Byte} (h : s.backend = .const v) (n : Nat) (a : Addr) :
    answerAt s n a = v := by
  simp [answerAt, levels, h]

/-- `Rom(f)` answers the cell at `a mod 4096` once the lines are configured (R54, R42). -/
theorem answerAt_rom {s : State} (hi : Initialised s) (h : s.backend = .rom) (n : Nat) (a : Addr) :
    answerAt s n a = memRead s.rom (a.toNat % 4096) := by
  obtain ⟨h1, _, h3, h4, _⟩ := hi
  simp [answerAt, levels, deviceEnabled, h1, h3, h4, h, effectiveAddr_rrc]

/-! ### The walk and the scan's result -/

theorem walkBytes_succ (s : State) (n : Nat) : walkBytes s (n + 1) = walkBytes s n ++ [walkByte s n] := by
  simp [walkBytes, List.range_succ]

theorem walkBytes_length (s : State) (n : Nat) : (walkBytes s n).length = n := by simp [walkBytes]

theorem walkBytes_getElem? {s : State} {n a : Nat} (h : a < n) : (walkBytes s n)[a]? = some (walkByte s a) := by
  simp [walkBytes, List.getElem?_range h]

theorem scanResult_le (s : State) : scanResult s ≤ 8192 := by
  unfold scanResult
  cases hf : (List.range 8192).find? (fun a => walkByte s a != 0xFF) with
  | none => simp
  | some r =>
    have := List.mem_of_find?_eq_some hf
    simp only [List.mem_range] at this
    simp only [Option.getD_some]
    omega

/-- A result below 8192 is the least address whose byte is not empty. -/
theorem scanResult_hit {s : State} (h : scanResult s < 8192) :
    walkByte s (scanResult s) ≠ 0xFF ∧ ∀ a, a < scanResult s → walkByte s a = 0xFF := by
  unfold scanResult at *
  cases hf : (List.range 8192).find? (fun a => walkByte s a != 0xFF) with
  | none => rw [hf] at h; simp at h
  | some r =>
    rw [List.find?_eq_some_iff_getElem] at hf
    simp only [bne_iff_ne, ne_eq, List.getElem_range, List.length_range, Bool.not_eq_true', bne_eq_false_iff_eq]
      at hf
    obtain ⟨h1, i, hi, rfl, h2⟩ := hf
    exact ⟨h1, fun a ha => h2 a ha⟩

/-- The result 8192 says that every byte of the walk is empty. -/
theorem scanResult_empty {s : State} (h : scanResult s = 8192) : ∀ a, a < 8192 → walkByte s a = 0xFF := by
  intro a ha
  unfold scanResult at h
  cases hf : (List.range 8192).find? (fun a => walkByte s a != 0xFF) with
  | none =>
    simp only [List.find?_eq_none, List.mem_range, bne_iff_ne, ne_eq, Decidable.not_not] at hf
    exact hf a ha
  | some r =>
    have := List.mem_of_find?_eq_some hf
    simp only [List.mem_range] at this
    rw [hf] at h
    simp only [Option.getD_some] at h
    omega

/-- The result is the least address whose byte is not empty, where there is one. -/
theorem scanResult_eq {s : State} {r : Nat} (hr : r < 8192) (h : walkByte s r ≠ 0xFF)
    (hlt : ∀ a, a < r → walkByte s a = 0xFF) : scanResult s = r := by
  have hle : scanResult s < 8192 :=
    Nat.lt_of_le_of_ne (scanResult_le s) fun he => h (scanResult_empty he r hr)
  obtain ⟨h1, h2⟩ := scanResult_hit hle
  rcases Nat.lt_trichotomy (scanResult s) r with h' | h' | h'
  · exact absurd (hlt _ h') h1
  · exact h'
  · exact absurd (h2 _ h') h

/-! ### Events -/

theorem readsFrom_append (l m : List Byte) (a : Nat) :
    readsFrom a (l ++ m) = readsFrom a l ++ readsFrom (a + l.length) m := by
  induction l generalizing a with
  | nil => simp [readsFrom]
  | cons d l ih => simp [readsFrom, ih, Nat.add_assoc, Nat.add_comm 1]

theorem chunksFrom_append (l m : List Chunk) (a : Nat) :
    chunksFrom a (l ++ m) = chunksFrom a l ++ chunksFrom (a + 16 * l.length) m := by
  induction l generalizing a with
  | nil => simp [chunksFrom]
  | cons d l ih =>
    simp only [List.cons_append, chunksFrom, ih, List.length_cons, List.append_assoc]
    rw [show a + 16 + 16 * l.length = a + 16 * (l.length + 1) by omega]

theorem sinkBytes_append (l m : List Event) : sinkBytes (l ++ m) = sinkBytes l ++ sinkBytes m := by
  induction l with
  | nil => rfl
  | cons e l ih => cases e <;> simp [sinkBytes, ih]

theorem sinkBytes_tx (l : List Byte) : sinkBytes (l.map .tx) = l := by
  induction l with
  | nil => rfl
  | cons c l ih => simp [sinkBytes, ih]

theorem sinkBytes_readsFrom (a : Nat) (l : List Byte) : sinkBytes (readsFrom a l) = [] := by
  induction l generalizing a with
  | nil => rfl
  | cons d l ih => simp [readsFrom, readEvents, sinkBytes, ih]

theorem driveEvents_append (l m : List Event) : driveEvents (l ++ m) = driveEvents l ++ driveEvents m :=
  List.filter_append l m

/-! ### The record's pure functions -/

theorem fieldBytes_length (a : Count) (b : Chunk) : (fieldBytes a b).length = 20 := by simp [fieldBytes]

theorem hexAll_length (l : List Byte) : (hexAll l).length = 2 * l.length := by
  induction l with
  | nil => rfl
  | cons x l ih => simp [hexAll, hex2, ih]; omega

theorem dataText_length (a : Count) (b : Chunk) : (dataText a b).length = dataLength := by
  simp [dataText, dataBody, dataLength, hexAll_length, fieldBytes_length, hex2]
  omega

theorem eofText_length : eofText.length = eofLength := by
  simp [eofText, eofBody, eofLength]
  omega

theorem sumBytes_append (l m : List Byte) : sumBytes (l ++ m) = sumBytes l + sumBytes m := by
  induction l with
  | nil => simp [sumBytes]
  | cons x l ih => simp [sumBytes, ih, BitVec.add_assoc]

/-- A byte plus its two's complement is 0 modulo 256 (41_dump_encoder.md R140). -/
theorem add_twosComplement (s : Byte) : s + twosComplement s = 0 := by
  apply BitVec.eq_of_toNat_eq
  have := s.isLt
  simp [twosComplement]
  omega

end Sys2Proof
end

