-- ==== Sys2Proof/Laws/PerInstr.lean ====
section
/-! SUPPORT. The statements made per instruction: the number a command's word is (30_encoding.md R60) and the length of
a record's text (R72). -/

namespace Sys2Proof.Laws.EncodedForm

open Machine

/-- A command is the word `8192 * op + addr`, `op` its code in R60; a data record has `L = 43 + len(EOL)` characters
and the end record `LE = 11 + len(EOL)` (R72). -/
def Statement (i : Instr) : Prop :=
  match encode i, i with
  | .word w, .init x => w.toNat = 0 * 8192 + x.toNat
  | .word w, .read a => w.toNat = 1 * 8192 + a.toNat
  | .word w, .scan x => w.toNat = 2 * 8192 + x.toNat
  | .word w, .dump x => w.toNat = 3 * 8192 + x.toNat
  | .text cs, .data _ _ => cs.length = 43 + Config.eol.length
  | .text cs, .eof => cs.length = 11 + Config.eol.length
  | _, _ => False

theorem init (x : Addr) : Statement (.init x) := cmdWord_toNat .init x

theorem read (a : Addr) : Statement (.read a) := cmdWord_toNat .read a

theorem scan (x : Addr) : Statement (.scan x) := cmdWord_toNat .scan x

theorem dump (x : Addr) : Statement (.dump x) := cmdWord_toNat .dump x

theorem data (a : Count) (b : Chunk) : Statement (.data a b) := dataText_length a b

theorem eof : Statement .eof := eofText_length

end Sys2Proof.Laws.EncodedForm
end

