-- ==== Sys2Proof/Laws/Steps.lean ====
section
/-! SUPPORT. What a micro-step, an instruction and a step keep, each from what the micro-steps keep; the fields no
micro-step writes; the read sequence as one lemma. -/

namespace Sys2Proof.Machine

/-- What every micro-step and every acceptance keep, every instruction keeps. -/
theorem exec_keeps {P : State → Prop} (hm : ∀ s, P s → P (micro s))
    (ha : ∀ o x s, Ready s → P s → P (accept o x s)) {i : Instr} {s t : State} (h : P s)
    (he : exec i s = .next t) : P t := by
  have hreset : s.rst = true → P (takeReset s) := fun hr => micro_eq_takeReset hr ▸ hm s h
  have hc (o : Op) (x : Addr) (n : Nat) : P (runCommand o x n s) := by
    obtain ⟨hr, e⟩ | ⟨_, _, e⟩ | ⟨hr, e⟩ := runCommand_cases o x n s <;> rw [e]
    · exact hreset hr
    · exact h
    · exact runWhile_keeps hm _ _ (ha _ _ _ hr h)
  have hrec (b : Bool) (f : Fsm) (n : Nat) : P (runRecord b f n s) := by
    obtain ⟨hr, e⟩ | ⟨_, _, e⟩ | ⟨_, _, e⟩ := runRecord_cases b f n s <;> rw [e]
    · exact hreset hr
    · exact h
    · exact runWhile_keeps hm _ _ h
  cases i <;> cases he <;> first | exact hc .. | exact hrec ..

/-- What every micro-step, every acceptance and taking a word off the port keep, every step keeps. -/
theorem step_keeps {P : State → Prop} (hm : ∀ s, P s → P (micro s))
    (ha : ∀ o x s, Ready s → P s → P (accept o x s)) (hf : ∀ s, P s → P { s with offer := s.offer.tail })
    {s t : State} (h : P s) (he : step s = .next t) : P t := by
  unfold step at he
  split at he
  · refine exec_keeps hm ha ?_ he
    unfold fetched
    split
    · exact hf _ h
    · exact h
  · cases he
    exact hm _ h

/-- No micro-step writes the device's cells (20_memory.md R41), the reset or the readiness of the sink. -/
theorem micro_environment (s : State) {c : Params} :
    (micro s c).rom = s.rom ∧ (micro s c).backend = s.backend ∧ (micro s c).rst = s.rst ∧
      (micro s c).txReady = s.txReady := by
  obtain ⟨_, e⟩ | ⟨_, e⟩ := micro_cases s (c := c) <;> rw [e]
  · exact ⟨rfl, rfl, rfl, rfl⟩
  · unfold fsmStep
    split <;> try exact ⟨rfl, rfl, rfl, rfl⟩
    · unfold idleStep
      split
      · exact ⟨rfl, rfl, rfl, rfl⟩
      · unfold accept
        split <;> exact ⟨rfl, rfl, rfl, rfl⟩
    · unfold rdRetStep
      split <;> exact ⟨rfl, rfl, rfl, rfl⟩
    · unfold scCallStep
      split <;> exact ⟨rfl, rfl, rfl, rfl⟩
    · unfold scTestStep
      split <;> exact ⟨rfl, rfl, rfl, rfl⟩
    · unfold duChunkStep
      split <;> exact ⟨rfl, rfl, rfl, rfl⟩
    · unfold duCallStep
      split <;> exact ⟨rfl, rfl, rfl, rfl⟩
    · unfold duEmitStep advanceData
      split <;> (try split) <;> exact ⟨rfl, rfl, rfl, rfl⟩
    · unfold duEofStep advanceEof
      split <;> (try split) <;> exact ⟨rfl, rfl, rfl, rfl⟩

/-- The read sequence up to RD_RET, from any state at RD_ADDR (40_device_interface.md R93, R112). -/
theorem microN_readSequence {s : State} (hr : s.rst = false) (hs : s.st = .rdAddr) :
    microN 11 s =
      { afterReads 1 s.addr s with
        st := .rdRet, trace := s.trace ++ readEvents s.addr (answerAt s 0 s.addr) } := by
  simp [microN, micro, hr, hs, fsmStep, rdAddrStep, rdWaitAsStep, rdCeOnStep, rdWaitCoStep, rdOeOnStep, rdWaitDvStep,
    rdSampleStep, rdWaitDhStep, rdOeOffStep, rdCeOffStep, rdWaitCdStep, goTo, emit, loadTimer, doWait, driveAddr,
    driveCe, driveOe, sampleData, afterReads, readEvents, driveAddrEvents, sampleEvents, addrIndices, dataIndices,
    answerAt, levels, effectiveAddr, bus, pin, pinOf, dir, deviceEnabled]

end Sys2Proof.Machine
end

