-- ==== Sys2Proof/Tests/Slice0.lean ====
section
/-! SUPPORT. The model's own tests: the vectors of 95_test_vectors.md, and for each statement with hypotheses a
concrete case that meets them. Every expected value is the spec's. -/

namespace Sys2Proof.Tests

open Machine

/-! ### Helpers -/

/-- The next state of an outcome. -/
def nextOf : Host.Outcome State Fault Refusal → Option State
  | .next s => some s
  | _ => none

/-- Idle after an INIT (95_test_vectors.md 2.5), with `Const(v)` behind the lines. -/
def ready (v : Byte) : State :=
  { State.reset with
    dirA := 0xFFF, dirCe := .out, dirOe := .out, latCe := true, latOe := true, latCeKnown := true, latOeKnown := true,
    backend := .const v }

/-- The same with `Rom(f)`, the cells given. -/
def readyRom (m : Memory) : State := { ready 0 with backend := .rom, rom := m }

/-- A state in the middle of a command, at the given FSM state. -/
def busyAt (o : Op) (f : Fsm) : State := { ready 0xFF with op := o, st := f }

/-- Data byte 0 is 0x00 and the others 0xFF (95_test_vectors.md S7). -/
def chunkS7 : Chunk :=
  #v[0x00, 0xFF, 0xFF, 0xFF, 0xFF, 0xFF, 0xFF, 0xFF, 0xFF, 0xFF, 0xFF, 0xFF, 0xFF, 0xFF, 0xFF, 0xFF]

/-! ### Well-formedness: a term each check refuses -/

theorem test_data_record_off_the_stride_is_ill_formed : WellFormed (.data 8 chunkS7) = false := by decide

theorem test_data_record_past_the_space_is_ill_formed : WellFormed (.data 8192 chunkS7) = false := by decide

theorem test_last_data_record_is_well_formed : WellFormed (.data 8176 chunkS7) = true := by decide

/-! ### Decoding: words written out bit by bit from 30_encoding.md R60 -/

theorem test_decode_init : decode (.word 0b00_0000000000000) = .ok (.init 0) := by decide

theorem test_decode_read : decode (.word 0b01_1000000000101) = .ok (.read 0x1005) := by decide

theorem test_decode_scan : decode (.word 0b10_0000000000000) = .ok (.scan 0) := by decide

theorem test_decode_dump_keeps_the_ignored_field : decode (.word 0b11_1111111111111) = .ok (.dump 0x1FFF) := by decide

/-! ### Decoding: record lines of 95_test_vectors.md 2.4, S7, S8 -/

/-- Row 1 of 2.4. -/
theorem test_decode_data_row1 :
    decodeLine
      [0x3A, 0x31, 0x30, 0x30, 0x30, 0x30, 0x30, 0x30, 0x30, 0x46, 0x46, 0x46, 0x46, 0x46, 0x46, 0x46, 0x46, 0x46,
      0x46, 0x46, 0x46, 0x46, 0x46, 0x46, 0x46, 0x46, 0x46, 0x46, 0x46, 0x46, 0x46, 0x46, 0x46, 0x46, 0x46, 0x46,
      0x46, 0x46, 0x46, 0x46, 0x46, 0x30, 0x30] =
    .ok (.data 0x0000
      #v[0xFF, 0xFF, 0xFF, 0xFF, 0xFF, 0xFF, 0xFF, 0xFF, 0xFF, 0xFF, 0xFF, 0xFF, 0xFF, 0xFF, 0xFF, 0xFF]) := by
  decide

/-- Row 4 of 2.4. -/
theorem test_decode_data_row4 :
    decodeLine
      [0x3A, 0x31, 0x30, 0x30, 0x46, 0x46, 0x30, 0x30, 0x30, 0x46, 0x46, 0x46, 0x46, 0x46, 0x46, 0x46, 0x46, 0x46,
      0x46, 0x46, 0x46, 0x46, 0x46, 0x46, 0x46, 0x46, 0x46, 0x46, 0x46, 0x46, 0x46, 0x46, 0x46, 0x46, 0x46, 0x46,
      0x46, 0x46, 0x46, 0x46, 0x46, 0x30, 0x31] =
    .ok (.data 0x0FF0
      #v[0xFF, 0xFF, 0xFF, 0xFF, 0xFF, 0xFF, 0xFF, 0xFF, 0xFF, 0xFF, 0xFF, 0xFF, 0xFF, 0xFF, 0xFF, 0xFF]) := by
  decide

/-- Row 7 of 2.4. -/
theorem test_decode_data_row7 :
    decodeLine
      [0x3A, 0x31, 0x30, 0x31, 0x30, 0x30, 0x30, 0x30, 0x30, 0x30, 0x30, 0x46, 0x46, 0x46, 0x46, 0x46, 0x46, 0x46,
      0x46, 0x46, 0x46, 0x46, 0x46, 0x46, 0x46, 0x46, 0x46, 0x46, 0x46, 0x46, 0x46, 0x46, 0x46, 0x46, 0x46, 0x46,
      0x46, 0x46, 0x46, 0x46, 0x46, 0x45, 0x46] =
    .ok (.data 0x1000
      #v[0x00, 0xFF, 0xFF, 0xFF, 0xFF, 0xFF, 0xFF, 0xFF, 0xFF, 0xFF, 0xFF, 0xFF, 0xFF, 0xFF, 0xFF, 0xFF]) := by
  decide

/-- Row 10 of 2.4. -/
theorem test_decode_data_row10 :
    decodeLine
      [0x3A, 0x31, 0x30, 0x30, 0x30, 0x46, 0x30, 0x30, 0x30, 0x30, 0x30, 0x30, 0x31, 0x30, 0x32, 0x30, 0x33, 0x30,
      0x34, 0x30, 0x35, 0x30, 0x36, 0x30, 0x37, 0x30, 0x38, 0x30, 0x39, 0x30, 0x41, 0x30, 0x42, 0x30, 0x43, 0x30,
      0x44, 0x30, 0x45, 0x30, 0x46, 0x38, 0x38] =
    .ok (.data 0x00F0
      #v[0x00, 0x01, 0x02, 0x03, 0x04, 0x05, 0x06, 0x07, 0x08, 0x09, 0x0A, 0x0B, 0x0C, 0x0D, 0x0E, 0x0F]) := by
  decide

/-- The first record as S7 prints it, whose last digit is wrong (90_conflicts.md C1). -/
theorem test_decode_refuses_the_printed_record :
    decodeLine
      [0x3A, 0x31, 0x30, 0x30, 0x30, 0x30, 0x30, 0x30, 0x30, 0x30, 0x30, 0x46, 0x46, 0x46, 0x46, 0x46, 0x46, 0x46,
      0x46, 0x46, 0x46, 0x46, 0x46, 0x46, 0x46, 0x46, 0x46, 0x46, 0x46, 0x46, 0x46, 0x46, 0x46, 0x46, 0x46, 0x46,
      0x46, 0x46, 0x46, 0x46, 0x46, 0x46, 0x30] =
    .error .badChecksum := by decide

/-- The same as an encoder's output: S7 corrected. -/
theorem test_encode_corrected_record :
    dataBody 0 chunkS7 =
      [0x3A, 0x31, 0x30, 0x30, 0x30, 0x30, 0x30, 0x30, 0x30, 0x30, 0x30, 0x46, 0x46, 0x46, 0x46, 0x46, 0x46, 0x46,
      0x46, 0x46, 0x46, 0x46, 0x46, 0x46, 0x46, 0x46, 0x46, 0x46, 0x46, 0x46, 0x46, 0x46, 0x46, 0x46, 0x46, 0x46,
      0x46, 0x46, 0x46, 0x46, 0x46, 0x46, 0x46] := by decide

/-- S8, as the number whose lowest byte is `:`. -/
theorem test_decode_eof : decodeTableWord 88 0x464631303030303030303A = some .eof := by decide

theorem test_decode_number_of_a_command : decodeTableWord 16 0x3005 = some (.read 0x1005) := by decide

/-- A 15-bit word has no bit 15 (30_encoding.md R60; entry 13). -/
theorem test_decode_refuses_bit_15 : decodeTableWord 16 0xA000 = none := by decide

theorem test_decode_refuses_an_unknown_record_type :
    decodeLine [0x3A, 0x30, 0x30, 0x30, 0x30, 0x30, 0x30, 0x30, 0x32, 0x46, 0x45] = .error .unknownRecord := by decide

/-! ### Operands and the formatter: 95_test_vectors.md 2.2, 2.3, 2.4 -/

theorem test_hex2_pads_and_is_upper_case : hex2 0x0A = [0x30, 0x41] ∧ hex2 0x9F = [0x39, 0x46] := by decide

theorem test_address_field : (hi8 8176, lo8 8176) = (0x1F, 0xF0) ∧ (hi8 256, lo8 256) = (0x01, 0x00) := by decide

/-- `s = 0` gives `ck = 0x00`, not 0x100 (row 12). -/
theorem test_checksum_of_sum_zero :
    checksum 0x00E0
      #v[0x10, 0x00, 0x00, 0x00, 0x00, 0x00, 0x00, 0x00, 0x00, 0x00, 0x00, 0x00, 0x00, 0x00, 0x00, 0x00] =
    0 := by decide

/-- The running sum of row 6 before `POS = 13` (2.4, accumulator trace). -/
theorem test_accumulator_trace : sumBytes ((fieldBytes 0 chunkS7).take 6) = 0x0F := by decide

/-- The checksum digits of row 9 by position (41_dump_encoder.md R143). -/
theorem test_checksum_digits_by_position :
    (datarecChar 0x1230 (Vector.replicate 16 0x80) 0x52 41, datarecChar 0x1230 (Vector.replicate 16 0x80) 0x52 42) =
      (0x41, 0x45) := by decide

theorem test_line_numbers : lineIndex (.d 7) = 19 ∧ lineIndex .ce = 20 ∧ lineIndex .oe = 21 := by decide

/-- The first state of each unit and the last of all (30_encoding.md R76). -/
theorem test_fsm_codes :
    [fsmCode .idle, fsmCode .rdAddr, fsmCode .scInit, fsmCode .duInit, fsmCode .duRet] = [0, 8, 24, 32, 38] := by decide

/-! ### The host's side: 30_encoding.md R77, R78; programs P1 and P2 -/

theorem test_assemble_p1 :
    assemble [['I', 'N', 'I', 'T'], ['R', 'E', 'A', 'D', ' ', '0', 'x', '1', '0', '0', '5']] =
      some [0x0000, 0x3005] := by decide

theorem test_assemble_refuses_8192 :
    parseLine ['R', 'E', 'A', 'D', ' ', '8', '1', '9', '2'] = none ∧
    parseLine ['R', 'E', 'A', 'D', ' ', '8', '1', '9', '1'] = some (.read 8191) := by decide

theorem test_wrapper_stops_on_the_sentinel : dumpIfNonEmpty 8192 = [] ∧ dumpIfNonEmpty 0 = [0x6000] := by decide

/-! ### One instruction each -/

/-- 2.5: 26 events, and the lines configured. -/
theorem test_init_from_reset :
    (nextOf (exec (.init 0) State.reset)).map (fun t => (t.trace.length, t.dirA, t.dirCe, t.latOe, t.st)) =
      some (26, 0xFFF, .out, true, .idle) := by decide

/-- 2.5, corner: before the Control lines become outputs they are not driven. -/
theorem test_init_drives_no_control_line_early :
    pin (microN 3 (accept .init 0 State.reset)) .ce = .z ∧
    pin (microN 4 (accept .init 0 State.reset)) .ce = .level true := by decide

/-- 2.6, row 4: `READ 0x0ABC` against `Const(0xA5)`. -/
theorem test_read_const :
    (nextOf (exec (.read 0x0ABC) (ready 0xA5))).map
        (fun t => (t.latA, t.trace.length, t.trace.getLast?, (t.trace.drop 18).take 3)) =
      some (0b101010111100, 31, some (.rsp (.read 0xA5)),
        [.sample (.d 0) true, .sample (.d 1) false, .sample (.d 2) true]) := by decide

/-- 2.6, row 5 and P1: bit 12 is kept in `ADDR` and not driven; `f(5) = 0x26`. -/
theorem test_read_through_the_alias :
    (nextOf (exec (.read 0x1005) (readyRom [(5, 0x26)]))).map (fun t => (t.addr, t.latA, t.data)) =
      some (0x1005, 0b000000000101, 0x26) := by decide

/-- 2.7, row 2: `f(3) = 0x5A`, result 3 after four reads, 118 events. -/
theorem test_scan_stops_at_3 :
    (nextOf (exec (.scan 0) (readyRom [(3, 0x5A)]))).map
        (fun t => (t.res, t.data, t.addr, t.draws, t.trace.length)) =
      some (3, 0x5A, 3, 4, 118) := by decide

/-- 2.7, row 5: the exit at the sentinel. -/
theorem test_scan_exits_at_the_sentinel :
    (microN 2 { busyAt .scan .scCall with cur := 8192 }).trace = [.rsp (.scan 8192)] := by decide

/-- 41_dump_encoder.md R134, at the last index. -/
theorem test_dump_stores_the_last_byte :
    let t := micro { busyAt .dump .duStore with idx := 15, data := 0x5A }
    (t.buf[15], t.buf[14], t.idx, t.st) = (0x5A, 0, 16, .duCall) := by decide

/-- R132: the end record follows the chunk at 8176. -/
theorem test_dump_ends_after_512_chunks :
    let t := micro { busyAt .dump .duChunk with cur := 8192 }
    (t.st, t.pos) = (.duEof, 0) := by decide

/-- 2.9: a record begins with `:`, whatever it holds. -/
theorem test_data_record_begins_with_a_colon :
    (micro { busyAt .dump .duEmit with cur := 0x1230 }).trace = [.tx 0x3A] := by
  simp [micro, busyAt, ready, State.reset, fsmStep, duEmitStep, transmit, emit, advanceData, dataLength, datarecChar,
    startMark, goTo]
  split <;> rfl

/-- 2.9: a sink that is not ready holds `DU_EMIT` at `POS = 17`. -/
theorem test_data_record_waits_for_the_sink :
    let s := { busyAt .dump .duEmit with pos := 17, txReady := false }
    micro s = s := by decide

/-- S8: the last digits of the end record. -/
theorem test_eof_digits : (eofrecChar 0, eofrecChar 8, eofrecChar 9, eofrecChar 10) = (0x3A, 0x31, 0x46, 0x46) := by
  decide

/-- R136: the end record's first character, whatever the last record left in `SUM`, `CUR` and `BUF`. -/
theorem test_eof_begins_with_a_colon :
    (micro { busyAt .dump .duEof with cur := 8192, sum := 0x97 }).trace = [.tx 0x3A] := by
  have h := eol_length_bounds
  have h1 : ¬ (0 : Nat) = eofLength - 1 := by
    unfold eofLength
    omega
  simp [micro, busyAt, ready, State.reset, fsmStep, duEofStep, transmit, emit, advanceEof, h1, eofrecChar, eofBody]

/-! ### Dispatch, reset, fetching: 95_test_vectors.md 2.9 -/

theorem test_command_while_busy_is_not_accepted :
    let s := { busyAt .read .rdWaitDv with offer := [0x2007] }
    ((micro s).addr, (micro s).offer, (micro s).trace) = (0, [0x2007], [.wait 100]) := by decide

theorem test_reset_in_the_hold_wait :
    let t := micro { busyAt .read .rdWaitDh with latCe := false, latOe := false, rst := true }
    (t.st, t.dirA, t.dirCe, t.trace, pin t .oe) = (.idle, 0, .inp, [], .z) := by decide

theorem test_reset_beats_an_offer :
    (nextOf (step { ready 0 with offer := [0x0000], rst := true })).map (fun t => (t.st, t.offer, t.trace)) =
      some (.idle, [0x0000], []) := by decide

theorem test_step_runs_a_placed_command :
    step (State.reset.withFetchWord 16 0x2005) = exec (.read 5) State.reset := by rfl

theorem test_step_runs_a_placed_end_record :
    step (State.reset.withFetchWord 88 0x464631303030303030303A) =
      exec .eof { State.reset with st := .duEof, op := .dump } := by rfl

/-! ### Reduced parameters: program P5 of 95_test_vectors.md -/

/-- The parameters of P5, at a clock of one cycle in a microsecond. -/
def p5 : Params :=
  { Config.rrc with na := 4, asize := 32, aw := 5, cw := 6, nrec := 2, eol := [0x0A], clkPerUs := 1 }

/-- The data `f(n) = 0xA0 + n` of P5. -/
def chunkP5 : Chunk :=
  #v[0xA0, 0xA1, 0xA2, 0xA3, 0xA4, 0xA5, 0xA6, 0xA7, 0xA8, 0xA9, 0xAA, 0xAB, 0xAC, 0xAD, 0xAE, 0xAF]

/-- A device with P5's cell 5 behind the lines, none configured yet. -/
def stateP5 : State := { State.reset with backend := .rom, rom := [(5, 0xA5)] }

theorem test_p5_is_legal : Config.legal p5 = true := by decide

/-- INIT has 17 events and the `Cmd`, a read 21; address 21 puts the levels of 5 on the four lines. -/
theorem test_p5_init_and_read :
    let t := (nextOf (execInit 0 stateP5 p5)).getD State.reset
    let u := (nextOf (execRead 21 t p5)).getD State.reset
    (t.trace.length, t.dirA, u.trace.length - t.trace.length, u.latA, u.data) = (18, 0xF, 1 + 21 + 1, 5, 0xA5) := by
  decide

/-- The second record of P5's dump. -/
theorem test_p5_record :
    dataText 16 chunkP5 p5 =
      [0x3A, 0x31, 0x30, 0x30, 0x30, 0x31, 0x30, 0x30, 0x30, 0x41, 0x30, 0x41, 0x31, 0x41, 0x32, 0x41, 0x33, 0x41,
      0x34, 0x41, 0x35, 0x41, 0x36, 0x41, 0x37, 0x41, 0x38, 0x41, 0x39, 0x41, 0x41, 0x41, 0x42, 0x41, 0x43, 0x41,
      0x44, 0x41, 0x45, 0x41, 0x46, 0x36, 0x38, 0x0A] := by decide

theorem test_p5_dump_steps : dumpSteps p5 = 555 := by decide

/-- P5's walk ends at 32, where RRC's goes on. -/
theorem test_p5_walk_ends_at_32 :
    let s := { busyAt .dump .duChunk with cur := 32 }
    ((micro s p5).st, (micro s).st) = (.duEof, .duCall) := by decide

/-! ### Witnesses: a concrete case for the hypotheses of each statement, and for each clause -/

/-- A data record line of the reader's (row 1 of 2.4). -/
def lineRow1 : List Byte :=
  startMark :: (hexAll (fieldBytes 0 (Vector.replicate 16 0xFF)) ++ [0x30, 0x30])

theorem witness_DecodeInvertsEncode :
    WellFormed (.read 8191) = true ∧ WellFormed (.data 0 chunkS7) = true ∧ WellFormed (.data 8176 chunkS7) = true ∧
    WellFormed .eof = true := by decide

theorem witness_EveryWordIsACommand :
    (0x1FFF : CmdWord).toNat / 8192 = 0 ∧ (0x2000 : CmdWord).toNat / 8192 = 1 ∧ (0x3FFF : CmdWord).toNat / 8192 = 1 ∧
    (0x4000 : CmdWord).toNat / 8192 = 2 ∧ (0x6000 : CmdWord).toNat / 8192 = 3 ∧
    (0x7FFF : CmdWord).toNat / 8192 = 3 := by decide

theorem witness_AcceptedDataLineCarriesItsChecksum :
    decodeLine lineRow1 = .ok (.data 0 (Vector.replicate 16 0xFF)) := by decide

theorem witness_DataCharactersSpellTheRecord :
    0 < 43 + Config.eol.length ∧ 42 + Config.eol.length < 43 + Config.eol.length := by omega

theorem witness_EndCharactersSpellTheLiteral :
    0 < 11 + Config.eol.length ∧ 10 + Config.eol.length < 11 + Config.eol.length := by omega

/-- `Ready`, before any INIT and after one: the one hypothesis of `InitCompletes`, `ReadCompletes`, `ScanCompletes` and
`ScanIsShortCircuit`. -/
theorem witness_ready : Ready State.reset ∧ Ready (ready 0xFF) := ⟨⟨rfl, rfl⟩, rfl, rfl⟩

theorem witness_AcceptanceDispatches :
    Ready State.reset ∧ State.reset.offer = [] ∧
    (∀ o : Op, Ready { State.reset with offer := [cmdWord o 8191] }) ∧
    { State.reset with offer := [cmdWord .read 8191] }.offer = cmdWord .read 8191 :: [] :=
  ⟨⟨rfl, rfl⟩, rfl, fun _ => ⟨rfl, rfl⟩, rfl⟩

theorem witness_ResetWinsOverEverything :
    { busyAt .dump .duEmit with rst := true }.rst = true ∧ State.reset.rst = false ∧
    (busyAt .read .rdRet).rst = false ∧ (busyAt .read .rdRet).st ≠ .idle ∧
    { busyAt .read .rdRet with offer := [0x2007] }.offer = cmdWord .read 7 :: [] ∧
    (micro { busyAt .read .rdRet with offer := [0x2007] }).st = .idle := by decide

/-- Two micro-steps before the end of an INIT, a READ offered. -/
theorem witness_BusyAcceptsNothing :
    (busyAt .init .initCm).rst = false ∧ (busyAt .init .initCm).st ≠ .idle ∧
    (∀ m : Nat, m < 2 → (microN m (busyAt .init .initCm)).st ≠ .idle) ∧
    (microN 2 (busyAt .init .initCm)).st = .idle ∧ [0x2007] = [cmdWord .read 7] := by decide

/-- Each way of being out of place. -/
theorem witness_InstructionOutOfPlaceHasNoEffect :
    ((busyAt .read .rdRet).rst = false ∧ (busyAt .read .rdRet).st ≠ .idle) ∧
    (State.reset.st ≠ .duEmit ∧ { busyAt .dump .duEmit with cur := 16 }.cur ≠ 0) ∧
    (State.reset.st ≠ .duEof ∧ { busyAt .dump .duEof with pos := 12 }.pos ≠ 0) ∧
    { ready 0 with rst := true }.rst = true := by decide

theorem witness_InitStatesStep :
    ∀ f : Fsm, f ∈ [Fsm.initAm, .initDm, .initCl, .initCm, .initRet] →
      (busyAt .init f).rst = false ∧ (busyAt .init f).st = f ∧
      ({ State.reset with st := f }.dirCe = .inp ∧ { State.reset with st := f }.dirOe = .inp) ∧
      (busyAt .init f).latCe = true ∧ (busyAt .init f).latOe = true ∧ (busyAt .init f).latCeKnown = true ∧
      (busyAt .init f).latOeKnown = true := by
  intro f _
  exact ⟨rfl, rfl, ⟨rfl, rfl⟩, rfl, rfl, rfl, rfl⟩

theorem witness_ReadControlStatesStep :
    ∀ f : Fsm, f ∈ [Fsm.rdCeOn, .rdOeOn, .rdSample, .rdOeOff, .rdCeOff] →
      (busyAt .read f).rst = false ∧ (busyAt .read f).st = f := by
  intro f _
  exact ⟨rfl, rfl⟩

theorem witness_AddressReachesTheLines :
    { busyAt .read .rdAddr with addr := 0x1FFF }.rst = false ∧
    { busyAt .read .rdAddr with addr := 0x1FFF }.st = .rdAddr := by decide

/-- The clauses of SC_CALL meet at 8191 and 8192, those of SC_TEST at 0xFE and 0xFF. -/
theorem witness_ScanStatesStep :
    { busyAt .scan .scCall with cur := 8191 }.cur.toNat < 8192 ∧
    8192 ≤ { busyAt .scan .scCall with cur := 8192 }.cur.toNat ∧
    { busyAt .scan .scTest with data := 0xFE }.data ≠ 0xFF ∧ { busyAt .scan .scTest with data := 0xFF }.data = 0xFF ∧
    (busyAt .scan .scInit).st = .scInit ∧ (busyAt .scan .scRet).st = .scRet ∧ (busyAt .scan .scRet).rst = false := by
  decide

/-- The clauses of DU_CHUNK meet at 8191 and 8192, those of DU_CALL at 15 and 16. -/
theorem witness_DumpWalkStatesStep :
    { busyAt .dump .duChunk with cur := 8191 }.cur.toNat < 8192 ∧
    8192 ≤ { busyAt .dump .duChunk with cur := 8192 }.cur.toNat ∧
    { busyAt .dump .duCall with idx := 15 }.idx.toNat < 16 ∧ 16 ≤ { busyAt .dump .duCall with idx := 16 }.idx.toNat ∧
    { busyAt .dump .duStore with idx := 15 }.idx.toNat < 16 ∧ (busyAt .dump .duStore).st = .duStore ∧
    (busyAt .dump .duInit).st = .duInit ∧ (busyAt .dump .duRet).st = .duRet ∧ (busyAt .dump .duRet).rst = false := by
  decide

/-- DU_EMIT at position `p`, with a ready sink. -/
def emitting (p : BitVec 6) : State := { busyAt .dump .duEmit with pos := p }

/-- Positions 1 and 39 (the first and the last that add), 40 and 0 (that do not), the last and the one before it. -/
theorem witness_EmitStateSendsOneCharacter :
    (emitting 0).rst = false ∧ (emitting 0).st = .duEmit ∧ (emitting 0).txReady = true ∧
    { emitting 0 with txReady := false }.txReady = false ∧
    (emitting 1).pos.toNat = 2 * 0 + 1 ∧ (emitting 39).pos.toNat = 2 * 19 + 1 ∧ 39 < (emitting 40).pos.toNat ∧
    (emitting 40).pos.toNat % 2 = 0 ∧ (emitting 40).pos.toNat < 42 + Config.eol.length ∧
    (emitting (BitVec.ofNat 6 (42 + Config.eol.length))).pos.toNat = 42 + Config.eol.length := by
  have h := eol_length_bounds
  refine ⟨rfl, rfl, rfl, rfl, rfl, rfl, by decide, rfl, ?_, ?_⟩
  · have : (emitting 40).pos.toNat = 40 := rfl
    omega
  · have : (emitting (BitVec.ofNat 6 (42 + Config.eol.length))).pos.toNat = (42 + Config.eol.length) % 64 := rfl
    omega

/-- DU_EOF at position `p`, with a ready sink. -/
def ending (p : BitVec 6) : State := { busyAt .dump .duEof with pos := p }

/-- The last position, the first, and a sink that is not ready. -/
theorem witness_EofStateSendsOneCharacter :
    (ending 0).rst = false ∧ (ending 0).st = .duEof ∧ (ending 0).txReady = true ∧
    { ending 0 with txReady := false }.txReady = false ∧ (ending 0).pos.toNat < 10 + Config.eol.length ∧
    (ending (BitVec.ofNat 6 (10 + Config.eol.length))).pos.toNat = 10 + Config.eol.length := by
  have h := eol_length_bounds
  refine ⟨rfl, rfl, rfl, rfl, ?_, ?_⟩
  · have : (ending 0).pos.toNat = 0 := rfl
    omega
  · have : (ending (BitVec.ofNat 6 (10 + Config.eol.length))).pos.toNat = (10 + Config.eol.length) % 64 := rfl
    omega

theorem witness_SinkHandshake :
    (emitting 17).rst = false ∧ (emitting 17).st = .duEmit ∧ (emitting 17).txReady = true ∧
    { emitting 17 with txReady := false }.txReady = false ∧ (busyAt .dump .duEof).st = .duEof ∧
    (busyAt .dump .duRet).st ≠ .duEmit ∧ (busyAt .dump .duRet).st ≠ .duEof := by decide

theorem witness_StatusOutputsFollowTheState :
    (busyAt .read .rdRet).rst = false ∧
    (micro (busyAt .read .rdRet)).trace = (busyAt .read .rdRet).trace ++ [.rsp (.read 0)] ∧
    (micro { busyAt .scan .scRet with res := 8192 }).trace = [] ++ [.rsp (.scan 8192)] := by decide

theorem witness_StepRunsTheOfferedCommand :
    Ready { ready 0 with offer := [0x3005, 0x6000] } ∧
    { ready 0 with offer := [0x3005, 0x6000] }.offer = 0x3005 :: [0x6000] := ⟨⟨rfl, rfl⟩, rfl⟩

theorem witness_StepRunsTheRecordItStandsAt :
    (emitting 0).rst = false ∧ (emitting 0).st = .duEmit ∧ (emitting 0).pos = 0 ∧ (emitting 0).sum = 0 ∧
    (busyAt .dump .duEof).st = .duEof ∧ (busyAt .dump .duEof).pos = 0 := by decide

theorem witness_StepElsewhereIsAMicroStep :
    (State.reset.rst = false ∧ State.reset.st = .idle ∧ State.reset.offer = []) ∧
    ((busyAt .read .rdRet).st ≠ .idle ∧ (busyAt .read .rdRet).st ≠ .duEmit ∧ (busyAt .read .rdRet).st ≠ .duEof) ∧
    ((emitting 1).st = .duEmit ∧ (emitting 1).pos ≠ 0) ∧
    { emitting 0 with sum := 1 }.st = .duEmit ∧ { emitting 0 with sum := 1 }.sum ≠ 0 := by decide

/-- INIT twice from reset; initialised lines. -/
theorem witness_InitIsIdempotent :
    Ready State.reset ∧ exec (.init 0) State.reset = .next (runCommand .init 0 5 State.reset) ∧
    exec (.init 0) (runCommand .init 0 5 State.reset) =
      .next (runCommand .init 0 5 (runCommand .init 0 5 State.reset)) ∧
    Initialised (ready 0xFF) :=
  ⟨⟨rfl, rfl⟩, rfl, rfl, rfl, rfl, rfl, rfl, rfl, rfl, rfl, rfl⟩

/-- Undriven Control lines, and driven ones at rest. -/
theorem witness_InitNeverAssertsAControlLine :
    (State.reset.dirCe = State.reset.dirOe ∧ State.reset.dirCe ≠ .out) ∧
    (ready 0xFF).dirCe = (ready 0xFF).dirOe ∧ (ready 0xFF).dirCe = .out ∧
    (ready 0xFF).latCe = true ∧ (ready 0xFF).latOe = true := by decide

/-- RD_ADDR for each caller, also for `ReadLastsItsCycles`. -/
theorem witness_ReadSequenceIsTwelveSteps :
    ∀ o : Op, (busyAt o .rdAddr).rst = false ∧ (busyAt o .rdAddr).st = .rdAddr ∧ (busyAt o .rdAddr).op = o :=
  fun _ => ⟨rfl, rfl, rfl⟩

/-- Reads at 5 and 4101, and both ends of the micro-steps' range. -/
theorem witness_ReadsAliasEvery4096 :
    Ready (readyRom [(5, 0x26)]) ∧
    (nextOf (exec (.read 5) (readyRom [(5, 0x26)]))).isSome = true ∧
    (nextOf (exec (.read (5 ^^^ 0x1000)) (readyRom [(5, 0x26)]))).isSome = true ∧ (0 ≤ 12 ∧ 12 ≤ 12) :=
  ⟨⟨rfl, rfl⟩, rfl, rfl, by omega⟩

/-- The backends of `ReadAnswersTheBackend` and `ScanOfTheReferenceBackends`. -/
theorem witness_backends :
    Ready (ready 0xFF) ∧ (ready 0xFF).backend = .const 0xFF ∧ Ready (readyRom []) ∧ (readyRom []).backend = .rom ∧
    Initialised (readyRom []) :=
  ⟨⟨rfl, rfl⟩, rfl, ⟨rfl, rfl⟩, rfl, rfl, rfl, rfl, rfl, rfl, rfl, rfl, rfl⟩

/-- A ready machine with a ready sink, for `DumpStream` and `DumpCompletes`; one whose sink is not ready, for
`DumpHoldsOnASinkNotReady`. -/
theorem witness_DumpCompletes :
    Ready (ready 0xFF) ∧ (ready 0xFF).txReady = true ∧
    Ready { ready 0xFF with txReady := false } ∧ { ready 0xFF with txReady := false }.txReady = false :=
  ⟨⟨rfl, rfl⟩, rfl, ⟨rfl, rfl⟩, rfl⟩

/-- Two dumps in a row, each answering a next state. -/
theorem witness_DumpTwiceSendsTheSameBytes :
    Ready (ready 0xFF) ∧ (ready 0xFF).txReady = true ∧ (ready 0xFF).backend = .const 0xFF ∧
    ∃ t u : State, exec (.dump 0) (ready 0xFF) = .next t ∧ exec (.dump 0) t = .next u :=
  ⟨⟨rfl, rfl⟩, rfl, rfl, _, _, rfl, rfl⟩

theorem witness_DataRecordCompletes :
    let s : State := { emitting 0 with cur := 8176, buf := chunkS7 }
    s.rst = false ∧ s.txReady = true ∧ s.st = .duEmit ∧ s.pos = 0 ∧ s.sum = 0 ∧ s.cur = 8176 ∧ s.buf = chunkS7 := by
  decide

theorem witness_EndRecordCompletes :
    let s : State := { busyAt .dump .duEof with cur := 8192, sum := 0x97 }
    s.rst = false ∧ s.txReady = true ∧ s.st = .duEof ∧ s.pos = 0 := by decide

/-- The two SCAN clauses, for `StepCounts` and `ScanIsShortCircuit`: the results 0, 4095 (the greatest below 8192 that
a reference backend gives, 41_dump_encoder.md R120 d) and 8192. -/
theorem witness_StepCounts :
    Ready (ready 0) ∧ scanResult (ready 0) = 0 ∧ Ready (readyRom [(4095, 0x7F)]) ∧
    scanResult (readyRom [(4095, 0x7F)]) = 4095 ∧ Ready (ready 0xFF) ∧ scanResult (ready 0xFF) = 8192 ∧
    (ready 0).txReady = true := by
  have walk (v : Byte) (n : Nat) : walkByte (ready v) n = v := answerAt_const rfl n _
  have cell (n : Nat) (h : n ≤ 4095) : walkByte (readyRom [(4095, 0x7F)]) n = memRead [(4095, 0x7F)] n := by
    rw [walkByte, answerAt_rom ⟨rfl, rfl, rfl, rfl, rfl, rfl, rfl, rfl⟩ rfl, BitVec.toNat_ofNat,
      Nat.mod_eq_of_lt (by omega : n < 2 ^ 13), Nat.mod_eq_of_lt (by omega : n < 4096)]
    rfl
  refine ⟨⟨rfl, rfl⟩, ?_, ⟨rfl, rfl⟩, ?_, ⟨rfl, rfl⟩, ?_, rfl⟩
  · exact scanResult_eq (by omega) (by rw [walk]; decide) fun a ha => absurd ha (Nat.not_lt_zero a)
  · refine scanResult_eq (by omega) (by rw [cell _ (Nat.le_refl _)]; decide) fun a ha => ?_
    rw [cell a (by omega)]
    simp [memRead, ha, Config.unlistedByte, Nat.ne_of_lt ha]
  · by_contra h
    exact (scanResult_hit (Nat.lt_of_le_of_ne (scanResult_le (ready 0xFF)) h)).1 (walk _ _)

theorem witness_TraceOnlyGrows : ∃ t : State, step State.reset = .next t := ⟨_, rfl⟩

theorem witness_OnlyInitAndResetWriteDirections :
    ((busyAt .read .rdAddr).rst = false ∧ (busyAt .read .rdAddr).st ≠ .initAm ∧
      (busyAt .read .rdAddr).st ≠ .initDm ∧ (busyAt .read .rdAddr).st ≠ .initCm) ∧
    (∀ x : Addr, Instr.read 5 ≠ .init x) ∧ (nextOf (exec (.read 5) (ready 0xFF))).isSome = true ∧
    dir (ready 0xFF) (.d 7) = .inp ∧ (nextOf (step (ready 0xFF))).isSome = true :=
  ⟨by decide, fun _ h => (by cases h), rfl, rfl, rfl⟩

theorem witness_LatchesAreWrittenByTheirStates :
    ∀ f : Fsm, (busyAt .read f).rst = false ∧ (busyAt .read f).st = f := fun _ => ⟨rfl, rfl⟩

theorem witness_TheSpaceIsReadOnly :
    (nextOf (exec (.read 5) (readyRom [(5, 0x26)]))).isSome = true ∧
    (nextOf (step { readyRom [(5, 0x26)] with offer := [0x2005] })).isSome = true := ⟨rfl, rfl⟩

/-- One word for each of the four commands, on initialised lines with a ready sink. -/
theorem witness_LinesAtRest :
    Ready (ready 0xFF) ∧ (ready 0xFF).txReady = true ∧ Initialised (ready 0xFF) ∧ cmdOp 0x0000 = .init ∧
    cmdOp 0x2005 ≠ .init ∧ cmdOp 0x4000 ≠ .init ∧ cmdOp 0x6000 ≠ .init :=
  ⟨⟨rfl, rfl⟩, rfl, ⟨rfl, rfl, rfl, rfl, rfl, rfl, rfl, rfl⟩, by decide, by decide, by decide, by decide⟩

/-- Each of the four commands answers a next state, whatever the registers hold. -/
theorem witness_CommandsReadNothingUnwritten :
    Ready (ready 0xFF) ∧ (ready 0xFF).txReady = true ∧ cmdOp 0x4000 = .scan ∧ cmdOp 0x6000 = .dump ∧
    cmdOp 0x2000 ≠ .init ∧
    ∀ w : CmdWord, ∃ t u : State, exec (decodeWord w) (ready 0xFF) = .next t ∧
      exec (decodeWord w) { ready 0xFF with cur := 77, sum := 9, latA := 5, data := 3 } = .next u := by
  refine ⟨⟨rfl, rfl⟩, rfl, by decide, by decide, by decide, fun w => ?_⟩
  cases decodeWord w <;> exact ⟨_, _, rfl, rfl⟩

/-- The law holds as a record begins, and at positions 41 and 42 of the record of S7, where `SUM = 0x01`. -/
theorem witness_AccumulatorLaw :
    (SumOk (emitting 0) ∧ (emitting 0).pos.toNat = 0) ∧
    ∀ p : BitVec 6, p = 41 ∨ p = 42 →
      SumOk { emitting p with buf := chunkS7, sum := 0x01 } ∧
      { emitting p with buf := chunkS7, sum := 0x01 }.st = .duEmit ∧
      { emitting p with buf := chunkS7, sum := 0x01 }.pos = p := by
  unfold SumOk
  refine ⟨by decide, ?_⟩
  rintro p (rfl | rfl) <;> decide

/-- The invariant holds at reset, in an initialised machine and in the middle of a dump: the hypothesis of the three
statements that it is kept. -/
theorem witness_MachineInv :
    MachineInv State.reset ∧ MachineInv (readyRom [(5, 0x26)]) ∧
    MachineInv { busyAt .dump .duCall with cur := 8176, idx := 16 } := by
  unfold MachineInv DirectionsOk ControlOk
  exact ⟨⟨rfl, by decide, by decide, trivial⟩, ⟨rfl, by decide, by decide, trivial⟩,
    rfl, by decide, by decide, rfl, ⟨by decide, by decide⟩, by decide⟩

end Sys2Proof.Tests
end

/-! ### Which steps write a direction (10_state.md R14, R37) -/

namespace Sys2Proof.Machine

theorem accept_dir (o : Op) (x : Addr) (s : State) : dir (accept o x s) = dir s := by
  cases o <;> rfl

theorem idleStep_dir (s : State) : dir (idleStep s) = dir s := by
  unfold idleStep
  split
  · rfl
  · exact accept_dir ..

theorem rdRetStep_dir (s : State) : dir (rdRetStep s) = dir s := by
  unfold rdRetStep
  split <;> rfl

theorem scCallStep_dir (s : State) {c : Params} : dir (scCallStep s c) = dir s := by
  unfold scCallStep
  split <;> rfl

theorem scTestStep_dir (s : State) {c : Params} : dir (scTestStep s c) = dir s := by
  unfold scTestStep
  split <;> rfl

theorem duChunkStep_dir (s : State) {c : Params} : dir (duChunkStep s c) = dir s := by
  unfold duChunkStep
  split <;> rfl

theorem duCallStep_dir (s : State) {c : Params} : dir (duCallStep s c) = dir s := by
  unfold duCallStep
  split <;> rfl

theorem advanceData_dir (s : State) {c : Params} : dir (advanceData s c) = dir s := by
  unfold advanceData
  split <;> rfl

theorem advanceEof_dir (s : State) {c : Params} : dir (advanceEof s c) = dir s := by
  unfold advanceEof
  split <;> rfl

theorem duEmitStep_dir (s : State) {c : Params} : dir (duEmitStep s c) = dir s := by
  unfold duEmitStep
  split
  · exact advanceData_dir s
  · rfl

theorem duEofStep_dir (s : State) {c : Params} : dir (duEofStep s c) = dir s := by
  unfold duEofStep
  split
  · exact advanceEof_dir s
  · rfl

/-- The three states that write a direction: `DIR` of the Address lines, of the Data lines, of the Control lines
(40_device_interface.md R91, R92, R95). -/
def writesDir (f : Fsm) : Bool := f == .initAm || f == .initDm || f == .initCm

/-- The step of every other state leaves all 22 directions. -/
theorem fsmStep_dir {s : State} {c : Params} (h : writesDir s.st = false) : dir (fsmStep s c) = dir s := by
  unfold fsmStep
  split
  case h_1 => exact idleStep_dir s
  case h_2 hs | h_3 hs | h_5 hs => simp [writesDir, hs] at h
  case h_18 => exact rdRetStep_dir s
  case h_20 => exact scCallStep_dir s
  case h_21 => exact scTestStep_dir s
  case h_24 => exact duChunkStep_dir s
  case h_25 => exact duCallStep_dir s
  case h_27 => exact duEmitStep_dir s
  case h_28 => exact duEofStep_dir s
  all_goals rfl

/-- INIT and reset alone write directions, and both make the Data lines inputs: one that is an input stays one. -/
theorem micro_dataLine_input {s : State} {c : Params} {j : Fin 8} (h : dir s (.d j) = .inp) :
    dir (micro s c) (.d j) = .inp := by
  obtain ⟨-, e⟩ | ⟨-, e⟩ := micro_cases s (c := c) <;> rw [e]
  · simp [dir]
  · cases hw : writesDir s.st
    · rw [fsmStep_dir hw, h]
    · simp only [writesDir, Bool.or_eq_true, beq_iff_eq] at hw
      obtain (hs | hs) | hs := hw <;> simp only [fsmStep, hs]
      · exact h
      · simp [initDmStep, dataLinesIn, dir]
      · exact h

/-! ### Runs that write no direction -/

/-- May a direction still be written before the machine is idle again? INIT's states from INIT_AM to INIT_CM. -/
def dirPending (f : Fsm) : Bool := writesDir f || f == .initCl

/-- INIT's states are entered at acceptance alone: no busy machine gets to them from elsewhere. -/
theorem fsmStep_dirPending {s : State} {c : Params} (hb : s.st ≠ .idle) (h : dirPending s.st = false) :
    dirPending (fsmStep s c).st = false := by
  unfold fsmStep
  split
  case h_1 hs => exact absurd hs hb
  case h_2 hs | h_3 hs | h_4 hs | h_5 hs => simp [dirPending, writesDir, hs] at h
  case h_18 => unfold rdRetStep; split <;> rfl
  case h_20 => unfold scCallStep; split <;> rfl
  case h_21 => unfold scTestStep; split <;> rfl
  case h_24 => unfold duChunkStep; split <;> rfl
  case h_25 => unfold duCallStep; split <;> rfl
  case h_27 hs =>
    unfold duEmitStep advanceData
    split
    · split
      · rfl
      · exact h
    · exact h
  case h_28 hs =>
    unfold duEofStep advanceEof
    split
    · split
      · rfl
      · exact h
    · exact h
  all_goals rfl

/-- A run that stops in IDLE at the latest and has no direction to write leaves them all. -/
theorem runWhile_dir {go : Fsm → Bool} (hgo : go .idle = false) (n : Nat) {s : State} {c : Params}
    (hr : s.rst = false) (hp : dirPending s.st = false) : dir (runWhile go n s c) = dir s := by
  have keeps (t : State) (hg : go t.st = true)
      (ht : t.rst = false ∧ dirPending t.st = false ∧ dir t = dir s) :
      (micro t c).rst = false ∧ dirPending (micro t c).st = false ∧ dir (micro t c) = dir s := by
    obtain ⟨hrt, hpt, hdt⟩ := ht
    have hb : t.st ≠ .idle := fun hi => by simp [hi, hgo] at hg
    have hw : writesDir t.st = false := (Bool.or_eq_false_iff.1 hpt).1
    refine ⟨(micro_environment t).2.2.1.trans hrt, ?_, ?_⟩ <;> rw [micro_eq_fsmStep hrt]
    · exact fsmStep_dirPending hb hpt
    · rw [fsmStep_dir hw, hdt]
  exact (runWhile_keeps_of keeps n ⟨hr, hp, rfl⟩).2.2

theorem accept_dirPending {o : Op} (ho : o ≠ .init) (x : Addr) (s : State) :
    dirPending (accept o x s).st = false := by
  cases o
  case init => exact absurd rfl ho
  all_goals rfl

/-- READ, SCAN and DUMP write no direction (10_state.md R14). -/
theorem runCommand_dir {o : Op} (ho : o ≠ .init) (x : Addr) (n : Nat) {s : State} {c : Params} (hr : s.rst = false) :
    dir (runCommand o x n s c) = dir s := by
  obtain ⟨hr', -⟩ | ⟨-, -, e⟩ | ⟨-, e⟩ := runCommand_cases o x n s (c := c)
  · simp [hr] at hr'
  · rw [e]
  · have hra : (accept o x s).rst = false := by cases o <;> exact hr
    rw [e, runWhile_dir rfl n hra (accept_dirPending ho x s), accept_dir]

/-- The emission of a record writes no direction: it begins in the state `f` of the record's characters. -/
theorem runRecord_dir {b : Bool} {f : Fsm} {s : State} {c : Params} (hf : f ≠ .idle) (hp : dirPending f = false)
    (hb : b = true → s.st = f) (n : Nat) (hr : s.rst = false) : dir (runRecord b f n s c) = dir s := by
  obtain ⟨hr', -⟩ | ⟨-, -, e⟩ | ⟨-, hb', e⟩ := runRecord_cases b f n s (c := c)
  · simp [hr] at hr'
  · rw [e]
  · rw [e, runWhile_dir (by simpa using hf.symm) n hr (by rw [hb hb', hp])]

theorem st_of_atDataStart {a : Count} {b : Chunk} {s : State} (h : atDataStart a b s = true) : s.st = .duEmit := by
  simp only [atDataStart, Bool.and_eq_true, beq_iff_eq] at h
  exact h.1.1.1.1

theorem st_of_atEofStart {s : State} (h : atEofStart s = true) : s.st = .duEof := by
  simp only [atEofStart, Bool.and_eq_true, beq_iff_eq] at h
  exact h.1

/-- Every instruction but INIT leaves all 22 directions, unless a reset is held. -/
theorem exec_dir {i : Instr} {s t : State} (hr : s.rst = false) (hi : ∀ x, i ≠ .init x) (he : exec i s = .next t) :
    dir t = dir s := by
  cases i <;> cases he
  case init x => exact absurd rfl (hi x)
  case read a => exact runCommand_dir (by decide) a _ hr
  case scan x => exact runCommand_dir (by decide) x _ hr
  case dump x => exact runCommand_dir (by decide) x _ hr
  case data a b => exact runRecord_dir (by decide) rfl st_of_atDataStart _ hr
  case eof => exact runRecord_dir (by decide) rfl st_of_atEofStart _ hr

end Sys2Proof.Machine

section
open Sys2Proof Sys2Proof.Machine

/-- Settles O44: three states of the FSM write directions, INIT alone gets to them, and what they and a reset write
to a Data line is "input". -/
theorem onlyInitAndResetWriteDirections : Obligations.OnlyInitAndResetWriteDirections := by
  refine ⟨fun s hr hAm hDm hCm l => ?_, fun s t i hr hi he l => congrFun (exec_dir hr hi he) l, fun s t j h he => ?_⟩
  · have hw : writesDir s.st = false := by simp [writesDir, hAm, hDm, hCm]
    rw [micro_eq_fsmStep hr, fsmStep_dir hw]
  · exact step_keeps (P := fun u => dir u (.d j) = .inp) (fun _ => micro_dataLine_input)
      (fun o x u _ hu => by rw [accept_dir, hu]) (fun _ hu => hu) h he

end

/-! ### The response of a micro-step (10_state.md R25; 42_dispatch_and_interfaces.md R164) -/

namespace Sys2Proof.Machine

/-- The response an event delivers, where it is one. -/
def responseOf : Event → Option Response
  | .rsp r => some r
  | _ => none

/-- The responses of a trace, in order. -/
def responses (es : List Event) : List Response := es.filterMap responseOf

@[simp] theorem responses_nil : responses [] = [] := rfl

@[simp] theorem responses_append (l m : List Event) : responses (l ++ m) = responses l ++ responses m :=
  List.filterMap_append

@[simp] theorem responses_cons (e : Event) (l : List Event) :
    responses (e :: l) = (responseOf e).toList ++ responses l := by
  cases e <;> rfl

@[simp] theorem responses_modeAddrEvents (d : Dir) (c : Params) : responses (modeAddrEvents d c) = [] := by
  simp [modeAddrEvents, responses, responseOf]

@[simp] theorem responses_modeDataEvents (d : Dir) (c : Params) : responses (modeDataEvents d c) = [] := by
  simp [modeDataEvents, responses, responseOf]

@[simp] theorem responses_driveAddrEvents (v : AddrLines) (c : Params) : responses (driveAddrEvents v c) = [] := by
  simp [driveAddrEvents, responses, responseOf]

@[simp] theorem responses_sampleEvents (v : Byte) (c : Params) : responses (sampleEvents v c) = [] := by
  simp [sampleEvents, responses, responseOf]

@[simp] theorem respond_trace (r : Response) (s : State) : (respond r s).trace = s.trace ++ [.rsp r] := rfl

@[simp] theorem respond_st (r : Response) (s : State) : (respond r s).st = .idle := rfl

/-- Where a response is pending the step is its delivery. -/
theorem fsmStep_eq_respond {s : State} {r : Response} {c : Params} (h : pendingResponse s = some r) :
    fsmStep s c = respond r s := by
  unfold pendingResponse at h
  split at h
  case h_1 hs | h_3 hs | h_4 hs =>
    cases h
    simp only [fsmStep, hs]
    rfl
  case h_2 hs =>
    split at h <;> rename_i ho <;> cases h
    simp [fsmStep, hs, rdRetStep, ho]
  case h_5 => cases h

theorem idleStep_responses (s : State) : responses (idleStep s).trace = responses s.trace := by
  unfold idleStep
  split
  · rfl
  · unfold accept
    split <;> simp [responseOf]

theorem duEmitStep_responses (s : State) {c : Params} : responses (duEmitStep s c).trace = responses s.trace := by
  unfold duEmitStep
  split
  · have h : (advanceData s c).trace = s.trace := by unfold advanceData; split <;> rfl
    simp [transmit, h, responseOf]
  · rfl

theorem duEofStep_responses (s : State) {c : Params} : responses (duEofStep s c).trace = responses s.trace := by
  unfold duEofStep
  split
  · have h : (advanceEof s c).trace = s.trace := by unfold advanceEof; split <;> rfl
    simp [transmit, h, responseOf]
  · rfl

/-- Where no response is pending the step delivers none. -/
theorem fsmStep_responses {s : State} {c : Params} (h : pendingResponse s = none) :
    responses (fsmStep s c).trace = responses s.trace := by
  unfold fsmStep
  split
  case h_1 => exact idleStep_responses s
  case h_6 hs | h_22 hs | h_29 hs => simp [pendingResponse, hs] at h
  case h_18 hs =>
    have ho : s.op ≠ .read := by simpa [pendingResponse, hs] using h
    unfold rdRetStep
    split
    · exact absurd ‹_› ho
    all_goals rfl
  case h_20 => unfold scCallStep; split <;> rfl
  case h_21 => unfold scTestStep; split <;> rfl
  case h_24 => unfold duChunkStep; split <;> rfl
  case h_25 => unfold duCallStep; split <;> rfl
  case h_27 => exact duEmitStep_responses s
  case h_28 => exact duEofStep_responses s
  all_goals
    simp [responseOf, initAmStep, initDmStep, initClStep, initCmStep, rdAddrStep, rdWaitAsStep, rdCeOnStep,
      rdWaitCoStep, rdOeOnStep, rdWaitDvStep, rdSampleStep, rdWaitDhStep, rdOeOffStep, rdCeOffStep, rdWaitCdStep,
      scInitStep, duInitStep, duStoreStep, addrLinesOut, dataLinesIn, controlLinesOut, driveAddr, driveCe, driveOe,
      sampleData, doWait]

/-- A micro-step delivers exactly the pending response. -/
theorem micro_delivers_iff {s : State} {r : Response} {c : Params} (hr : s.rst = false) :
    (micro s c).trace = s.trace ++ [.rsp r] ↔ pendingResponse s = some r := by
  rw [micro_eq_fsmStep hr]
  constructor
  · intro h
    cases hp : pendingResponse s with
    | none => simpa [h, responseOf] using fsmStep_responses (c := c) hp
    | some r' => simpa [fsmStep_eq_respond hp, eq_comm] using h
  · intro h
    rw [fsmStep_eq_respond h, respond_trace]

/-- READ's response carries `DATA` (R164). -/
theorem pendingResponse_read {s : State} {d : Byte} (h : pendingResponse s = some (.read d)) : d = s.data := by
  unfold pendingResponse at h
  split at h
  case h_2 => split at h <;> cases h; rfl
  all_goals cases h

/-- SCAN's response carries `RES` (R164). -/
theorem pendingResponse_scan {s : State} {x : Count} (h : pendingResponse s = some (.scan x)) : x = s.res := by
  unfold pendingResponse at h
  split at h
  case h_2 => split at h <;> cases h
  case h_3 => cases h; rfl
  all_goals cases h

/-! ### The status outputs -/

theorem cmdReady_iff (s : State) : cmdReady s = true ↔ s.st = .idle := beq_iff_eq

theorem busy_iff (s : State) : busy s = true ↔ s.st ≠ .idle := bne_iff_ne

theorem txValid_iff {s : State} (hr : s.rst = false) : txValid s = true ↔ s.st = .duEmit ∨ s.st = .duEof := by
  simp [txValid, emits, hr]

/-- The response ports show the pending response: there is one, its command, READ's byte, SCAN's address. -/
theorem ports_of_pendingResponse {s : State} {c : Params} (hr : s.rst = false) :
    (ports s c).rspValid = (pendingResponse s).isSome ∧
    (∀ r, pendingResponse s = some r → (ports s c).rspOp = some s.op) ∧
    (∀ d, pendingResponse s = some (.read d) → (ports s c).rspData = some d) ∧
    (∀ x, pendingResponse s = some (.scan x) → (ports s c).rspAddr = some x) := by
  refine ⟨?_, fun r h => ?_, fun d h => ?_, fun x h => ?_⟩ <;> simp [ports, *]

end Sys2Proof.Machine

section
open Sys2Proof Sys2Proof.Machine

/-- Settles O20: what a micro-step delivers is the pending response, which is what the response ports show. -/
theorem statusOutputsFollowTheState : Obligations.StatusOutputsFollowTheState := by
  intro s hr
  obtain ⟨hvalid, hop, hread, hscan⟩ := ports_of_pendingResponse hr (c := Config.rrc)
  simp only [micro_delivers_iff hr]
  refine ⟨cmdReady_iff s, busy_iff s, txValid_iff hr, ?_, fun r h => ⟨?_, hop r h⟩,
    fun d h => ⟨hread d h, pendingResponse_read h⟩, fun x h => ⟨hscan x h, pendingResponse_scan h⟩⟩
  · rw [hvalid, Option.isSome_iff_exists]
  · rw [micro_eq_fsmStep hr, fsmStep_eq_respond h, respond_st]

end

/-! ### The space is read-only (20_memory.md R41) -/

namespace Sys2Proof.Machine

/-- `t`'s trace is `s`'s with events after it, none of which drives a Data line. -/
def AppendsNoDataDrive (s t : State) : Prop :=
  ∃ es : List Event, t.trace = s.trace ++ es ∧ ∀ (j : Fin 8) (b : Bool), Event.drive (.d j) b ∉ es

theorem AppendsNoDataDrive.of_trace_eq {s t : State} (h : t.trace = s.trace) : AppendsNoDataDrive s t :=
  ⟨[], by simp [h], by simp⟩

theorem AppendsNoDataDrive.trans {s t u : State} (hst : AppendsNoDataDrive s t) (htu : AppendsNoDataDrive t u) :
    AppendsNoDataDrive s u := by
  obtain ⟨es, he, hes⟩ := hst
  obtain ⟨fs, hf, hfs⟩ := htu
  exact ⟨es ++ fs, by rw [hf, he, List.append_assoc], fun j b hm => (List.mem_append.1 hm).elim (hes j b) (hfs j b)⟩

theorem accept_appendsNoDataDrive (o : Op) (x : Addr) (s : State) : AppendsNoDataDrive s (accept o x s) :=
  ⟨[.cmd o x], by cases o <;> rfl, by simp⟩

theorem idleStep_appendsNoDataDrive (s : State) : AppendsNoDataDrive s (idleStep s) := by
  unfold idleStep
  split
  · exact .of_trace_eq rfl
  · exact accept_appendsNoDataDrive _ _ { s with offer := _ }

theorem initClStep_appendsNoDataDrive (s : State) : AppendsNoDataDrive s (initClStep s) :=
  ⟨[.drive .ce true, .drive .oe true], List.append_assoc .., by simp⟩

theorem rdRetStep_appendsNoDataDrive (s : State) : AppendsNoDataDrive s (rdRetStep s) := by
  unfold rdRetStep
  split
  case h_1 => exact ⟨_, rfl, by simp⟩
  all_goals exact .of_trace_eq rfl

theorem advanceData_trace (s : State) {c : Params} : (advanceData s c).trace = s.trace := by
  unfold advanceData
  split <;> rfl

theorem advanceEof_trace (s : State) {c : Params} : (advanceEof s c).trace = s.trace := by
  unfold advanceEof
  split <;> rfl

theorem duEmitStep_appendsNoDataDrive (s : State) {c : Params} : AppendsNoDataDrive s (duEmitStep s c) := by
  unfold duEmitStep
  split
  · exact (AppendsNoDataDrive.of_trace_eq (advanceData_trace s)).trans ⟨_, rfl, by simp⟩
  · exact .of_trace_eq rfl

theorem duEofStep_appendsNoDataDrive (s : State) {c : Params} : AppendsNoDataDrive s (duEofStep s c) := by
  unfold duEofStep
  split
  · exact (AppendsNoDataDrive.of_trace_eq (advanceEof_trace s)).trans ⟨_, rfl, by simp⟩
  · exact .of_trace_eq rfl

/-- The states that drive lines drive Address and Control lines alone. -/
theorem fsmStep_appendsNoDataDrive (s : State) {c : Params} : AppendsNoDataDrive s (fsmStep s c) := by
  unfold fsmStep
  split
  case h_1 => exact idleStep_appendsNoDataDrive s
  case h_2 => exact ⟨modeAddrEvents .out c, rfl, by simp [modeAddrEvents]⟩
  case h_3 => exact ⟨modeDataEvents .inp c, rfl, by simp [modeDataEvents]⟩
  case h_4 => exact initClStep_appendsNoDataDrive s
  case h_7 => exact ⟨driveAddrEvents (effectiveAddr s.addr c) c, rfl, by simp [driveAddrEvents]⟩
  case h_13 => exact ⟨sampleEvents (levels s c) c, rfl, by simp [sampleEvents]⟩
  case h_18 => exact rdRetStep_appendsNoDataDrive s
  case h_20 => exact .of_trace_eq (by unfold scCallStep; split <;> rfl)
  case h_21 => exact .of_trace_eq (by unfold scTestStep; split <;> rfl)
  case h_24 => exact .of_trace_eq (by unfold duChunkStep; split <;> rfl)
  case h_25 => exact .of_trace_eq (by unfold duCallStep; split <;> rfl)
  case h_27 => exact duEmitStep_appendsNoDataDrive s
  case h_28 => exact duEofStep_appendsNoDataDrive s
  case h_19 | h_23 | h_26 => exact .of_trace_eq rfl
  all_goals exact ⟨_, rfl, by simp⟩

theorem micro_appendsNoDataDrive (s : State) {c : Params} : AppendsNoDataDrive s (micro s c) := by
  obtain ⟨-, e⟩ | ⟨-, e⟩ := micro_cases s (c := c) <;> rw [e]
  · exact .of_trace_eq rfl
  · exact fsmStep_appendsNoDataDrive s

theorem step_appendsNoDataDrive {s t : State} (h : step s = .next t) : AppendsNoDataDrive s t :=
  step_keeps (P := AppendsNoDataDrive s) (fun u hu => hu.trans (micro_appendsNoDataDrive u))
    (fun o x u _ hu => hu.trans (accept_appendsNoDataDrive o x u)) (fun _ hu => hu) (.of_trace_eq rfl) h

theorem micro_rom {s : State} {c : Params} : (micro s c).rom = s.rom := (micro_environment s).1

theorem accept_rom (o : Op) (x : Addr) (s : State) : (accept o x s).rom = s.rom := by
  cases o <;> rfl

theorem exec_rom {i : Instr} {s t : State} (h : exec i s = .next t) : t.rom = s.rom :=
  exec_keeps (P := fun u => u.rom = s.rom) (fun _ => micro_rom.trans) (fun o x u _ => (accept_rom o x u).trans) rfl h

theorem step_rom {s t : State} (h : step s = .next t) : t.rom = s.rom :=
  step_keeps (P := fun u => u.rom = s.rom) (fun _ => micro_rom.trans) (fun o x u _ => (accept_rom o x u).trans)
    (fun _ hu => hu) rfl h

end Sys2Proof.Machine

section
open Sys2Proof Sys2Proof.Machine

/-- Settles O46: no micro-step writes the cells, and those that drive lines drive Address and Control lines alone. -/
theorem theSpaceIsReadOnly : Obligations.TheSpaceIsReadOnly :=
  ⟨fun _ _ _ _ h => by rw [exec_rom h], fun _ _ _ h => by rw [step_rom h], fun _ _ h => step_appendsNoDataDrive h⟩

end

/-! ### READ as a whole (40_device_interface.md R93, R97) -/

namespace Sys2Proof.Machine

/-- A run to the end of a command goes through the read sequence up to RD_RET. -/
theorem runWhile_inProgress_read {s : State} (hr : s.rst = false) (hs : s.st = .rdAddr) (n : Nat) :
    runWhile inProgress (11 + n) s = runWhile inProgress n (microN 11 s) := by
  refine runWhile_microN 11 n fun k hk => ?_
  interval_cases k <;>
    simp [microN, micro, fsmStep, inProgress, hr, hs, rdAddrStep, rdWaitAsStep, rdCeOnStep, rdWaitCoStep, rdOeOnStep,
      rdWaitDvStep, rdSampleStep, rdWaitDhStep, rdOeOffStep, rdCeOffStep, driveAddr, driveCe, driveOe, doWait,
      sampleData]

/-- READ is its acceptance, the read sequence and the delivery of the sampled byte. -/
theorem exec_read {s : State} (h : Ready s) (a : Addr) : exec (.read a) s = .next (readEnd a s) := by
  have hr : (accept .read a s).rst = false := h.1
  have hrun : exec (.read a) s = .next (runWhile inProgress (11 + 1) (accept .read a s)) :=
    congrArg Host.Outcome.next (runCommand_ready h .read a readSteps)
  rw [hrun, runWhile_inProgress_read hr rfl, microN_readSequence hr rfl, runWhile_go rfl]
  refine congrArg Host.Outcome.next ((micro_eq_fsmStep ?_).trans ?_)
  · exact h.1
  · rfl

end Sys2Proof.Machine

/-! ### Addresses that put the same levels on the lines (20_memory.md R42) -/

namespace Sys2Proof.Machine

/-- The state with another `ADDR` and another trace. -/
def withAddrTrace (a : Addr) (es : List Event) (s : State) : State := { s with addr := a, trace := es }

@[simp] theorem withAddrTrace_st (a : Addr) (es : List Event) (s : State) : (withAddrTrace a es s).st = s.st := rfl
@[simp] theorem withAddrTrace_op (a : Addr) (es : List Event) (s : State) : (withAddrTrace a es s).op = s.op := rfl
@[simp] theorem withAddrTrace_addr (a : Addr) (es : List Event) (s : State) : (withAddrTrace a es s).addr = a := rfl
@[simp] theorem withAddrTrace_offer (a : Addr) (es : List Event) (s : State) :
    (withAddrTrace a es s).offer = s.offer := rfl

/-- `t` is `s` but for the trace and for what of `ADDR` reaches no line. -/
def SameLines (s t : State) : Prop :=
  ∃ (a : Addr) (es : List Event), effectiveAddr a = effectiveAddr s.addr ∧ t = withAddrTrace a es s

theorem SameLines.pin_eq {s t : State} (h : SameLines s t) (l : Line) : pin s l = pin t l := by
  obtain ⟨a, es, -, rfl⟩ := h
  cases l <;> rfl

theorem SameLines.latches_eq {s t : State} (h : SameLines s t) :
    s.latA = t.latA ∧ s.latCe = t.latCe ∧ s.latOe = t.latOe := by
  obtain ⟨a, es, -, rfl⟩ := h
  exact ⟨rfl, rfl, rfl⟩

theorem SameLines.txReady_eq {s t : State} (h : SameLines s t) : s.txReady = t.txReady := by
  obtain ⟨a, es, -, rfl⟩ := h
  rfl

theorem SameLines.emit {s t : State} (h : SameLines s t) (es fs : List Event) :
    SameLines (emit es s) (emit fs t) := by
  obtain ⟨a, gs, ha, rfl⟩ := h
  exact ⟨a, gs ++ fs, ha, rfl⟩

theorem SameLines.ite {p : Prop} [Decidable p] {s s' t t' : State} (h : SameLines s t) (h' : SameLines s' t') :
    SameLines (if p then s else s') (if p then t else t') := by
  split
  · exact h
  · exact h'

theorem accept_sameLines {s t : State} (h : SameLines s t) (o : Op) (x : Addr) :
    SameLines (accept o x s) (accept o x t) := by
  obtain ⟨a, es, ha, rfl⟩ := h
  cases o
  case read => exact ⟨x, _, rfl, rfl⟩
  all_goals exact ⟨a, _, ha, rfl⟩

theorem idleStep_sameLines {s t : State} (h : SameLines s t) : SameLines (idleStep s) (idleStep t) := by
  obtain ⟨a, es, ha, rfl⟩ := h
  unfold idleStep
  rw [withAddrTrace_offer]
  cases s.offer with
  | nil => exact ⟨a, es, ha, rfl⟩
  | cons w rest =>
    have hrest : SameLines { s with offer := rest } { withAddrTrace a es s with offer := rest } := ⟨a, es, ha, rfl⟩
    exact accept_sameLines hrest (cmdOp w) (cmdAddr w)

theorem rdAddrStep_sameLines {s t : State} (h : SameLines s t) : SameLines (rdAddrStep s) (rdAddrStep t) := by
  obtain ⟨a, es, ha, rfl⟩ := h
  unfold rdAddrStep
  rw [withAddrTrace_addr, ha]
  exact ⟨a, es ++ driveAddrEvents (effectiveAddr s.addr), ha, rfl⟩

theorem rdRetStep_sameLines {s t : State} (h : SameLines s t) : SameLines (rdRetStep s) (rdRetStep t) := by
  obtain ⟨a, es, ha, rfl⟩ := h
  unfold rdRetStep
  rw [withAddrTrace_op]
  cases s.op <;> exact ⟨a, _, ha, rfl⟩

theorem advanceData_sameLines {s t : State} (h : SameLines s t) : SameLines (advanceData s) (advanceData t) := by
  obtain ⟨a, es, ha, rfl⟩ := h
  exact .ite ⟨a, es, ha, rfl⟩ ⟨a, es, ha, rfl⟩

theorem advanceEof_sameLines {s t : State} (h : SameLines s t) : SameLines (advanceEof s) (advanceEof t) := by
  obtain ⟨a, es, ha, rfl⟩ := h
  exact .ite ⟨a, es, ha, rfl⟩ ⟨a, es, ha, rfl⟩

theorem duEmitStep_sameLines {s t : State} (h : SameLines s t) : SameLines (duEmitStep s) (duEmitStep t) := by
  unfold duEmitStep
  rw [h.txReady_eq]
  exact .ite ((advanceData_sameLines h).emit _ _) h

theorem duEofStep_sameLines {s t : State} (h : SameLines s t) : SameLines (duEofStep s) (duEofStep t) := by
  unfold duEofStep
  rw [h.txReady_eq]
  exact .ite ((advanceEof_sameLines h).emit _ _) h

/-- No state reads the trace, and RD_ADDR alone reads `ADDR`, as far as it reaches the lines (40_device_interface.md
R100). -/
theorem fsmStep_sameLines {s t : State} (h : SameLines s t) : SameLines (fsmStep s) (fsmStep t) := by
  obtain ⟨a, es, ha, rfl⟩ := id h
  unfold fsmStep
  rw [withAddrTrace_st]
  cases s.st
  case idle => exact idleStep_sameLines h
  case rdAddr => exact rdAddrStep_sameLines h
  case rdRet => exact rdRetStep_sameLines h
  case scCall | duCall => exact .ite ⟨_, es, rfl, rfl⟩ ⟨a, es, ha, rfl⟩
  case scTest | duChunk => exact .ite ⟨a, es, ha, rfl⟩ ⟨a, es, ha, rfl⟩
  case duEmit => exact duEmitStep_sameLines h
  case duEof => exact duEofStep_sameLines h
  all_goals exact ⟨a, _, ha, rfl⟩

theorem micro_sameLines {s t : State} (h : SameLines s t) : SameLines (micro s) (micro t) := by
  obtain ⟨a, es, -, rfl⟩ := id h
  exact .ite ⟨0, es, rfl, rfl⟩ (fsmStep_sameLines h)

theorem microN_sameLines (n : Nat) {s t : State} (h : SameLines s t) : SameLines (microN n s) (microN n t) := by
  induction n generalizing s t with
  | zero => exact h
  | succ n ih => exact ih (micro_sameLines h)

/-! #### Two reads at addresses that put the same levels on the lines -/

section
variable {a b : Addr} (h : effectiveAddr a = effectiveAddr b) (s : State)
include h

theorem accept_read_sameLines : SameLines (accept .read a s) (accept .read b s) :=
  ⟨b, s.trace ++ [.cmd .read b], h.symm, rfl⟩

/-- The environment sees the lines alone, so it answers both alike (20_memory.md R52). -/
theorem answerAt_congr_addr (n : Nat) : answerAt s n a = answerAt s n b := by
  unfold answerAt
  rw [h]

theorem readEvents_congr_addr (d : Byte) : readEvents a d = readEvents b d := by
  have hbit (i : Nat) (hi : i < 12) : a.getLsbD i = b.getLsbD i := by
    simpa [effectiveAddr_rrc, hi] using congrArg (·.getLsbD i) h
  simp only [readEvents, hbit, Nat.reduceLT]

theorem readEnd_sameLines : SameLines (readEnd a s) (readEnd b s) := by
  refine ⟨b, (readEnd b s).trace, h.symm, ?_⟩
  simp only [readEnd, afterReads, withAddrTrace, answerAt_congr_addr h, h]

/-- After the acceptance the two reads leave the same events. -/
theorem readEnd_trace_congr_addr : ∃ es : List Event,
    (readEnd a s).trace = s.trace ++ .cmd .read a :: es ∧ (readEnd b s).trace = s.trace ++ .cmd .read b :: es := by
  refine ⟨readEvents b (answerAt s 0 b) ++ [.rsp (.read (answerAt s 0 b))], ?_, ?_⟩
  · simp [readEnd, answerAt_congr_addr h, readEvents_congr_addr h]
  · simp [readEnd]

end

/-- Bit 12 of an address reaches no line. -/
theorem effectiveAddr_xor_bit12 (a : Addr) : effectiveAddr (a ^^^ 0x1000) = effectiveAddr a := by
  rw [effectiveAddr_rrc, effectiveAddr_rrc, BitVec.setWidth_xor]
  exact BitVec.xor_zero

theorem effectiveAddr_toNat (a : Addr) : (effectiveAddr a).toNat = a.toNat % 4096 := by
  rw [effectiveAddr_rrc, BitVec.toNat_setWidth]

end Sys2Proof.Machine

section
open Sys2Proof Sys2Proof.Machine

/-- Settles O29: the two reads go through states that differ in the trace and in bit 12 of `ADDR` alone, which reaches
no line. -/
theorem readsAliasEvery4096 : Obligations.ReadsAliasEvery4096 := by
  intro s t u a hs ht hu
  have ha : effectiveAddr a = effectiveAddr (a ^^^ 0x1000) := (effectiveAddr_xor_bit12 a).symm
  obtain rfl : readEnd a s = t := Host.Outcome.next.inj ((exec_read hs a).symm.trans ht)
  obtain rfl : readEnd (a ^^^ 0x1000) s = u := Host.Outcome.next.inj ((exec_read hs _).symm.trans hu)
  have hend := readEnd_sameLines ha s
  obtain ⟨hA, hCe, hOe⟩ := hend.latches_eq
  obtain ⟨es, hta, htb⟩ := readEnd_trace_congr_addr ha s
  refine ⟨effectiveAddr_toNat a, hA, hCe, hOe, hend.pin_eq,
    fun n l _ => (microN_sameLines n (accept_read_sameLines ha s)).pin_eq l, ?_, ?_⟩
  · rw [hta, htb, List.drop_left, List.drop_left]
    rfl
  · rw [hta, htb, ← List.drop_drop, ← List.drop_drop, List.drop_left, List.drop_left]
    rfl

end

/-! ### The records by position (30_encoding.md R63, R65; 41_dump_encoder.md R143, R144) -/

namespace Sys2Proof.Machine

/-- Character `k` is the high or the low digit of byte `k / 2`. -/
theorem hexAll_getElem? (l : List Byte) (k : Nat) :
    (hexAll l)[k]? = l[k / 2]?.map fun x => digit (if k % 2 = 0 then highDigit x else lowDigit x) := by
  induction l generalizing k with
  | nil => rfl
  | cons x xs ih =>
    match k with
    | 0 => rfl
    | 1 => rfl
    | k + 2 =>
      have hdiv : (k + 2) / 2 = k / 2 + 1 := by omega
      have hmod : (k + 2) % 2 = k % 2 := by omega
      rw [hdiv, hmod, List.getElem?_cons_succ, ← ih]
      rfl

/-- The character by position is the one of the record's text, as long as the running sum is complete where the
checksum is read. -/
theorem dataText_getElem? {a : Count} {b : Chunk} {sum : Byte} {p : Nat} (hp : p < 43 + Config.eol.length)
    (hsum : 41 ≤ p → sum = sumBytes (fieldBytes a b)) :
    (dataText a b)[p]? = some (datarecChar a b sum p) := by
  have hlen : (hexAll (fieldBytes a b)).length = 40 := by rw [hexAll_length, fieldBytes_length]
  rw [dataText_rrc, datarecChar_rrc]
  obtain rfl | ⟨q, rfl⟩ : p = 0 ∨ ∃ q, p = q + 1 := by cases p <;> simp
  · rfl
  · have hcons : (dataBody a b ++ Config.eol)[q + 1]? =
        (hexAll (fieldBytes a b) ++ (hex2 (checksum a b) ++ Config.eol))[q]? := by simp [dataBody]
    rw [hcons]
    by_cases hq : q < 40
    · have hk : q / 2 < (fieldBytes a b).length := by rw [fieldBytes_length]; omega
      rw [List.getElem?_append_left (by omega), hexAll_getElem?, List.getD_eq_getElem?_getD]
      simp [hq, List.getElem?_eq_getElem hk, apply_ite digit]
    · rw [List.getElem?_append_right (by omega), hlen, checksum, ← hsum (by omega)]
      obtain ⟨r, rfl⟩ : ∃ r, q = r + 40 := ⟨q - 40, by omega⟩
      match r with
      | 0 => rfl
      | 1 => rfl
      | r + 2 =>
        have hr : r < Config.eol.length := by omega
        have h41 : ¬r + 2 + 40 + 1 < 41 := by omega
        simp [hex2, hr, hp, h41]

theorem eofText_getElem? {p : Nat} (hp : p < 11 + Config.eol.length) : eofText[p]? = some (eofrecChar p) := by
  rw [eofText_rrc, eofrecChar, eofLength_rrc]
  by_cases h : p ≤ 10
  · have hb : p < eofBody.length := Nat.lt_succ_of_le h
    rw [List.getElem?_append_left hb, List.getElem?_eq_getElem hb, if_pos h, List.getD_eq_getElem _ _ hb]
  · have h11 : eofBody.length = 11 := rfl
    have hr : p - 11 < Config.eol.length := by omega
    rw [List.getElem?_append_right (by omega), h11, if_neg h, if_pos hp, List.getElem?_eq_getElem hr]
    exact congrArg some (List.getD_eq_getElem _ _ hr).symm

/-- The sum of one more byte of the list; past its end nothing is added. -/
theorem sumBytes_take_succ (l : List Byte) (n : Nat) :
    sumBytes (l.take (n + 1)) = sumBytes (l.take n) + l.getD n 0 := by
  induction l generalizing n with
  | nil => simp [sumBytes]
  | cons x xs ih =>
    cases n with
    | zero => simp [sumBytes]
    | succ n => simp [sumBytes, ih n, BitVec.add_assoc]

end Sys2Proof.Machine

/-! ### Runs of a known length -/

namespace Sys2Proof.Machine

/-- From `s` the machine gets to `t` in `n` micro-steps, through states that `go` keeps running. -/
def RunsTo (go : Fsm → Bool) (n : Nat) (s t : State) : Prop :=
  microN n s = t ∧ ∀ k, k < n → go (microN k s).st = true

section
variable {go : Fsm → Bool} {m n : Nat} {s t u : State}

theorem RunsTo.refl (go : Fsm → Bool) (s : State) : RunsTo go 0 s s := ⟨rfl, fun k hk => absurd hk k.not_lt_zero⟩

theorem RunsTo.one (hgo : go s.st = true) (h : micro s = t) : RunsTo go 1 s t :=
  ⟨h, fun k hk => by rwa [Nat.lt_one_iff.1 hk]⟩

theorem RunsTo.trans (hst : RunsTo go m s t) (htu : RunsTo go n t u) : RunsTo go (m + n) s u := by
  obtain ⟨rfl, hgos⟩ := hst
  obtain ⟨rfl, hgot⟩ := htu
  refine ⟨microN_add m n s, fun k hk => ?_⟩
  by_cases hkm : k < m
  · exact hgos k hkm
  · obtain ⟨j, rfl⟩ : ∃ j, k = m + j := ⟨k - m, by omega⟩
    rw [microN_add]
    exact hgot j (by omega)

/-- A loop whose every turn takes `m` micro-steps. -/
theorem RunsTo.loop {f : Nat → State} (h : ∀ i, i < n → RunsTo go m (f i) (f (i + 1))) :
    RunsTo go (n * m) (f 0) (f n) := by
  induction n with
  | zero => rw [Nat.zero_mul]; exact .refl go (f 0)
  | succ n ih =>
    rw [Nat.succ_mul]
    exact (ih fun i hi => h i (Nat.lt_succ_of_lt hi)).trans (h n (Nat.lt_succ_self n))

/-- A run through one state that is not IDLE is part of a command in progress. -/
theorem RunsTo.toInProgress {f : Fsm} (h : RunsTo (fun g => g == f) n s t) (hf : f ≠ .idle) :
    RunsTo inProgress n s t :=
  ⟨h.1, fun k hk => by rw [eq_of_beq (h.2 k hk)]; exact bne_iff_ne.2 hf⟩

theorem RunsTo.runWhile_eq (h : RunsTo go n s t) : runWhile go n s = t := by
  obtain ⟨rfl, hgo⟩ := h
  exact runWhile_microN n 0 hgo

end

/-! ### One read of a walk -/

/-- After a read at `a` that goes on in the FSM state `f` (40_device_interface.md R93). -/
def readInto (f : Fsm) (a : Addr) (s : State) : State :=
  { afterReads 1 a s with st := f, trace := s.trace ++ readEvents a (answerAt s 0 a) }

/-- The twelve states of the read sequence, in order (R112). -/
def readStates : List Fsm :=
  [.rdAddr, .rdWaitAs, .rdCeOn, .rdWaitCo, .rdOeOn, .rdWaitDv, .rdSample, .rdWaitDh, .rdOeOff, .rdCeOff, .rdWaitCd,
    .rdRet]

section
variable {s : State} (hr : s.rst = false) (hs : s.st = .rdAddr)
include hr hs

theorem readSequence_states : (List.range 12).map (fun k => (microN k s).st) = readStates := by
  simp [List.range_succ, readStates, microN, micro, fsmStep, hr, hs, rdAddrStep, rdWaitAsStep, rdCeOnStep, rdWaitCoStep,
    rdOeOnStep, rdWaitDvStep, rdSampleStep, rdWaitDhStep, rdOeOffStep, rdCeOffStep, rdWaitCdStep, driveAddr, driveCe,
    driveOe, doWait, sampleData]

/-- The read sequence up to RD_RET is part of a command in progress. -/
theorem runsTo_read : RunsTo inProgress 11 s (readInto .rdRet s.addr s) := by
  refine ⟨microN_readSequence hr hs, fun k hk => ?_⟩
  have hmem : (microN k s).st ∈ (List.range 12).map fun k => (microN k s).st :=
    List.mem_map_of_mem (List.mem_range.2 (by omega))
  rw [readSequence_states hr hs] at hmem
  exact (by decide : ∀ f ∈ readStates, inProgress f = true) _ hmem

/-- The read sequence called by DUMP returns to DU_STORE (R111). -/
theorem runsTo_read_of_dump (ho : s.op = .dump) : RunsTo inProgress 12 s (readInto .duStore s.addr s) := by
  have hop : (readInto .rdRet s.addr s).op = .dump := ho
  have hret : micro (readInto .rdRet s.addr s) = rdRetStep (readInto .rdRet s.addr s) := micro_eq_fsmStep hr
  rw [rdRetStep, hop] at hret
  exact (runsTo_read hr hs).trans (.one rfl hret)

end

end Sys2Proof.Machine

/-! ### The sixteen reads of a chunk -/

namespace Sys2Proof.Machine

/-- Later reads of a walk are reads from the state that the first `m` left. -/
theorem answerAt_add {s t : State} {m : Nat} (n : Nat) (a : Addr) (hb : t.backend = s.backend) (hm : t.rom = s.rom)
    (hd : t.draws = s.draws + m) (ha : t.dirA = s.dirA) (hc : t.dirCe = s.dirCe) (ho : t.dirOe = s.dirOe) :
    answerAt t n a = answerAt s (m + n) a := by
  simp [answerAt, levels, bus, pin, pinOf, dir, deviceEnabled, hb, hm, hd, ha, hc, ho, Nat.add_assoc]

/-- The byte answered by read `i` of a walk from address `a`. -/
def answerFrom (a : Nat) (s : State) (i : Nat) : Byte := answerAt s i (BitVec.ofNat 13 (a + i))

/-- The chunk buffer after the first `i` reads of a chunk. -/
def partChunk (a : Nat) (s : State) (i : Nat) : Chunk :=
  Vector.ofFn fun k : Fin 16 => if k < i then answerFrom a s k else s.buf[k]

/-- At DU_CALL after the first `i` reads of the chunk at `a`, from `s` at DU_CALL before them. -/
def reading (a : Nat) (s : State) : Nat → State
  | 0 => s
  | i + 1 =>
    { afterReads (i + 1) (BitVec.ofNat 13 (a + i)) s with
      idx := BitVec.ofNat 5 (i + 1), buf := partChunk a s (i + 1),
      trace := s.trace ++ readsFrom a ((List.range (i + 1)).map (answerFrom a s)) }

theorem dumpAddr_ofNat (a : Nat) {i : Nat} (hi : i < 16) :
    dumpAddr (BitVec.ofNat 14 a) (BitVec.ofNat 5 i) = BitVec.ofNat 13 (a + i) := by
  apply BitVec.eq_of_toNat_eq
  simp [dumpAddr]
  omega

section
variable (a : Nat) (s : State) (i : Nat)

@[simp] theorem reading_st : (reading a s i).st = s.st := by cases i <;> rfl
@[simp] theorem reading_op : (reading a s i).op = s.op := by cases i <;> rfl
@[simp] theorem reading_cur : (reading a s i).cur = s.cur := by cases i <;> rfl
@[simp] theorem reading_rst : (reading a s i).rst = s.rst := by cases i <;> rfl
@[simp] theorem reading_draws : (reading a s i).draws = s.draws + i := by cases i <;> rfl

theorem reading_idx (h : s.idx = 0) : (reading a s i).idx = BitVec.ofNat 5 i := by
  cases i
  · exact h
  · rfl

theorem partChunk_zero : partChunk a s 0 = s.buf := by
  ext k hk
  simp [partChunk]

theorem partChunk_succ (hi : i < 16) : (partChunk a s i).set i (answerFrom a s i) = partChunk a s (i + 1) := by
  ext k hk
  by_cases hik : i = k
  · simp [partChunk, hik]
  · have hlt : k < i ↔ k < i + 1 := by omega
    simp [partChunk, hik, hlt]

@[simp] theorem reading_buf : (reading a s i).buf = partChunk a s i := by
  cases i
  · exact (partChunk_zero a s).symm
  · rfl

@[simp] theorem reading_trace :
    (reading a s i).trace = s.trace ++ readsFrom a ((List.range i).map (answerFrom a s)) := by
  cases i
  · exact (List.append_nil s.trace).symm
  · rfl

theorem answerAt_reading (b : Addr) : answerAt (reading a s i) 0 b = answerAt s i b := by
  cases i
  · rfl
  · exact answerAt_add 0 b rfl rfl rfl rfl rfl rfl

end

/-- Read and store of byte `i` of the chunk. -/
theorem duStoreStep_reading {a : Nat} {s : State} {i : Nat} (hs : s.st = .duCall) (hi : i < 16) (hidx : s.idx = 0) :
    duStoreStep (readInto .duStore (BitVec.ofNat 13 (a + i)) (reading a s i)) = reading a s (i + 1) := by
  have hidx' : (reading a s i).idx = BitVec.ofNat 5 i := reading_idx a s i hidx
  have hnext : BitVec.ofNat 5 i + 1 = BitVec.ofNat 5 (i + 1) := (BitVec.ofNat_add i 1).symm
  have hbuf : storeByte (readInto .duStore (BitVec.ofNat 13 (a + i)) (reading a s i)) = partChunk a s (i + 1) := by
    have hn : i % 2 ^ 5 = i := by omega
    simp only [storeByte, readInto, afterReads, hidx', BitVec.toNat_ofNat, hn, hi, ↓reduceDIte, reading_buf,
      Nat.sub_self, answerAt_reading]
    exact partChunk_succ a s i hi
  have hreads : readsFrom a ((List.range (i + 1)).map (answerFrom a s)) =
      readsFrom a ((List.range i).map (answerFrom a s)) ++
        readEvents (BitVec.ofNat 13 (a + i)) (answerAt s i (BitVec.ofNat 13 (a + i))) := by
    simp [List.range_succ, readsFrom_append, readsFrom, answerFrom]
  rw [duStoreStep, hbuf, reading, hreads]
  simp only [readInto, afterReads, goTo, hidx', hnext, Nat.sub_self, Nat.add_sub_cancel, answerAt_reading,
    reading_trace, reading_draws, List.append_assoc, ← Nat.add_assoc, hs]
  cases i <;> rfl

/-- One turn of the inner loop: DU_CALL, the read, DU_STORE (41_dump_encoder.md R133, R134). -/
theorem runsTo_read_and_store {s : State} (hr : s.rst = false) (hs : s.st = .duCall) (ho : s.op = .dump)
    (hin : idxInRange s = true) :
    RunsTo inProgress 14 s (duStoreStep (readInto .duStore (dumpAddr s.cur s.idx) s)) := by
  have hcall : micro s = goTo .rdAddr { s with addr := dumpAddr s.cur s.idx } := by
    rw [micro_eq_fsmStep hr]
    simp only [fsmStep, hs, duCallStep, hin, if_true]
  have hstore : micro (readInto .duStore (dumpAddr s.cur s.idx) s) =
      duStoreStep (readInto .duStore (dumpAddr s.cur s.idx) s) := micro_eq_fsmStep hr
  have hread := runsTo_read_of_dump (s := goTo .rdAddr { s with addr := dumpAddr s.cur s.idx }) hr rfl ho
  have hgo : inProgress s.st = true := by rw [hs]; rfl
  exact (RunsTo.one hgo hcall).trans (hread.trans (.one rfl hstore))

/-- The reads of a chunk (R133, R134). -/
theorem runsTo_reading {a n : Nat} {s : State} (hr : s.rst = false) (hs : s.st = .duCall) (ho : s.op = .dump)
    (hcur : s.cur = BitVec.ofNat 14 a) (hidx : s.idx = 0) (hn : n ≤ 16) :
    RunsTo inProgress (n * 14) s (reading a s n) := by
  refine RunsTo.loop (f := reading a s) fun i hi => ?_
  have hi16 : i < 16 := by omega
  have hidx' : (reading a s i).idx = BitVec.ofNat 5 i := reading_idx a s i hidx
  have hin : idxInRange (reading a s i) = true := by
    rw [idxInRange_iff, hidx', BitVec.toNat_ofNat]
    omega
  have hturn := runsTo_read_and_store (s := reading a s i) (by rw [reading_rst, hr]) (by rw [reading_st, hs])
    (by rw [reading_op, ho]) hin
  rwa [reading_cur, hcur, hidx', dumpAddr_ofNat a hi16, duStoreStep_reading hs hi16 hidx] at hturn

end Sys2Proof.Machine

/-! ### The emission of a record (41_dump_encoder.md R135, R136) -/

namespace Sys2Proof.Machine

/-- A position of a record fits the register `POS` (10_state.md R35). -/
theorem pos_toNat {p : Nat} (hp : p < 43 + Config.eol.length) : (BitVec.ofNat 6 p).toNat = p := by
  have h21 := eol_length_bounds.2
  rw [BitVec.toNat_ofNat]
  omega

/-- A trace after one more character of a text. -/
theorem trace_tx (es : List Event) {l : List Byte} {p : Nat} {c : Byte} (h : l[p]? = some c) :
    es ++ (l.take p).map .tx ++ [.tx c] = es ++ (l.take (p + 1)).map .tx := by
  rw [List.take_add_one, h]
  simp

/-- At DU_EMIT after the first `p` characters of the data record, from `s` before them. -/
def emittingData (s : State) (p : Nat) : State :=
  { s with
    sum := sumBytes ((fieldBytes s.cur s.buf).take (p / 2)), pos := BitVec.ofNat 6 p,
    trace := s.trace ++ ((dataText s.cur s.buf).take p).map .tx }

/-- At DU_EOF after the first `p` characters of the end record, from `s` before them. -/
def emittingEof (s : State) (p : Nat) : State :=
  { s with pos := BitVec.ofNat 6 p, trace := s.trace ++ (eofText.take p).map .tx }

section
variable {s : State} {p : Nat}

/-- All twenty field bytes are in `SUM` from position 40 on (R141). -/
theorem sumBytes_take_fieldBytes {a : Count} {b : Chunk} (hp : 40 ≤ p) :
    sumBytes ((fieldBytes a b).take (p / 2)) = sumBytes (fieldBytes a b) := by
  rw [List.take_of_length_le (by rw [fieldBytes_length]; omega)]

/-- `SUM` is the sum of the field bytes whose high digits have been sent: the accumulator law (R141). -/
theorem nextSum_emittingData (hp : p < 43 + Config.eol.length) :
    nextSum (emittingData s p) = sumBytes ((fieldBytes s.cur s.buf).take ((p + 1) / 2)) := by
  have hpos : (emittingData s p).pos.toNat = p := pos_toNat hp
  rw [nextSum, hpos]
  split
  next hadd =>
    obtain ⟨hodd, -⟩ := (sumsAt_iff p).1 hadd
    have hdiv : (p - 1) / 2 = p / 2 ∧ (p + 1) / 2 = p / 2 + 1 := by omega
    rw [hdiv.1, hdiv.2, sumBytes_take_succ]
    rfl
  next hadd =>
    rw [sumsAt_iff] at hadd
    show sumBytes _ = _
    by_cases hp41 : p < 41
    · have hdiv : (p + 1) / 2 = p / 2 := by omega
      rw [hdiv]
    · rw [sumBytes_take_fieldBytes (by omega), sumBytes_take_fieldBytes (by omega)]

variable (hr : s.rst = false) (ht : s.txReady = true)
include hr ht

/-- With the sink ready DU_EMIT sends the character of the current position (R135). -/
theorem micro_duEmit (hs : s.st = .duEmit) :
    micro s = transmit (datarecChar s.cur s.buf s.sum s.pos.toNat) (advanceData s) := by
  rw [micro_eq_fsmStep hr]
  simp only [fsmStep, hs, duEmitStep, ht, if_true]

/-- With the sink ready DU_EOF sends the character of the current position (R136). -/
theorem micro_duEof (hs : s.st = .duEof) : micro s = transmit (eofrecChar s.pos.toNat) (advanceEof s) := by
  rw [micro_eq_fsmStep hr]
  simp only [fsmStep, hs, duEofStep, ht, if_true]

/-- One character of the data record is sent; the last one ends the record. -/
theorem micro_emittingData (hs : s.st = .duEmit) (hp : p < 43 + Config.eol.length) :
    micro (emittingData s p) = if p = 42 + Config.eol.length then dataEnd s else emittingData s (p + 1) := by
  have hpos : (emittingData s p).pos.toNat = p := pos_toNat hp
  have hnext : (emittingData s p).pos + 1 = BitVec.ofNat 6 (p + 1) := (BitVec.ofNat_add p 1).symm
  have htrace := trace_tx s.trace (dataText_getElem? (sum := (emittingData s p).sum) hp fun h =>
    sumBytes_take_fieldBytes (by omega))
  have hlast : dataLength - 1 = 42 + Config.eol.length := by rw [dataLength_rrc]; omega
  rw [micro_duEmit (s := emittingData s p) hr ht hs, hpos, advanceData, hpos, hlast, nextSum_emittingData hp, hnext]
  split
  next hend =>
    have hall : (dataText s.cur s.buf).take (p + 1) = dataText s.cur s.buf :=
      List.take_of_length_le (by rw [dataText_length, dataLength_rrc]; omega)
    rw [hall] at htrace
    rw [sumBytes_take_fieldBytes (by omega : 40 ≤ p + 1)]
    subst hend
    exact congrArg (fun es => { dataEnd s with trace := es }) htrace
  next =>
    exact congrArg (fun es => { emittingData s (p + 1) with trace := es }) htrace

/-- The data record the encoder stands at is emitted whole (R135). -/
theorem runsTo_dataEnd (hs : s.st = .duEmit) (hpos : s.pos = 0) (hsum : s.sum = 0) :
    RunsTo (fun f => f == .duEmit) dataLength s (dataEnd s) := by
  have hstart : emittingData s 0 = s := by
    cases s
    simp_all [emittingData, sumBytes]
  have hgo (p : Nat) : ((emittingData s p).st == .duEmit) = true := by simp [emittingData, hs]
  have hloop : RunsTo (fun f => f == .duEmit) ((42 + Config.eol.length) * 1) (emittingData s 0)
      (emittingData s (42 + Config.eol.length)) := by
    refine RunsTo.loop fun p hp => .one (hgo p) ?_
    rw [micro_emittingData hr ht hs (by omega), if_neg (by omega)]
  have hlast := micro_emittingData (p := 42 + Config.eol.length) hr ht hs (by omega)
  rw [if_pos rfl] at hlast
  have hlen : dataLength = (42 + Config.eol.length) * 1 + 1 := by rw [dataLength_rrc]; omega
  rw [hlen]
  exact (hstart ▸ hloop).trans (.one (hgo _) hlast)

/-- One character of the end record is sent; the last one ends the record. -/
theorem micro_emittingEof (hs : s.st = .duEof) (hp : p < 11 + Config.eol.length) :
    micro (emittingEof s p) = if p = 10 + Config.eol.length then eofEnd s else emittingEof s (p + 1) := by
  have hpos : (emittingEof s p).pos.toNat = p := pos_toNat (by omega)
  have hnext : (emittingEof s p).pos + 1 = BitVec.ofNat 6 (p + 1) := (BitVec.ofNat_add p 1).symm
  have htrace := trace_tx s.trace (eofText_getElem? hp)
  have hlast : eofLength - 1 = 10 + Config.eol.length := by rw [eofLength_rrc]; omega
  rw [micro_duEof (s := emittingEof s p) hr ht hs, hpos, advanceEof, hpos, hlast, hnext]
  split
  next hend =>
    have hall : eofText.take (p + 1) = eofText :=
      List.take_of_length_le (by rw [eofText_length, eofLength_rrc]; omega)
    rw [hall] at htrace
    subst hend
    exact congrArg (fun es => { eofEnd s with trace := es }) htrace
  next =>
    exact congrArg (fun es => { emittingEof s (p + 1) with trace := es }) htrace

/-- The end record is emitted whole (R136). -/
theorem runsTo_eofEnd (hs : s.st = .duEof) (hpos : s.pos = 0) :
    RunsTo (fun f => f == .duEof) eofLength s (eofEnd s) := by
  have hstart : emittingEof s 0 = s := by
    cases s
    simp_all [emittingEof]
  have hgo (p : Nat) : ((emittingEof s p).st == .duEof) = true := by simp [emittingEof, hs]
  have hloop : RunsTo (fun f => f == .duEof) ((10 + Config.eol.length) * 1) (emittingEof s 0)
      (emittingEof s (10 + Config.eol.length)) := by
    refine RunsTo.loop fun p hp => .one (hgo p) ?_
    rw [micro_emittingEof hr ht hs (by omega), if_neg (by omega)]
  have hlast := micro_emittingEof (p := 10 + Config.eol.length) hr ht hs (by omega)
  rw [if_pos rfl] at hlast
  have hlen : eofLength = (10 + Config.eol.length) * 1 + 1 := by rw [eofLength_rrc]; omega
  rw [hlen]
  exact (hstart ▸ hloop).trans (.one (hgo _) hlast)

end

end Sys2Proof.Machine

/-! ### DUMP as a whole (41_dump_encoder.md R130) -/

namespace Sys2Proof.Machine

theorem walkChunk_getElem (s : State) (j : Nat) {k : Nat} (hk : k < 16) :
    (walkChunk s j)[k] = walkByte s (16 * j + k) := by
  interval_cases k <;> rfl

theorem walkChunk_toList (s : State) (j : Nat) :
    (walkChunk s j).toList = (List.range 16).map fun k => walkByte s (16 * j + k) := rfl

/-- The state at DU_CALL before the first read of a chunk, from `s` at DU_CHUNK (R132). -/
def chunkStart (s : State) : State := goTo .duCall { s with idx := 0 }

/-- The state at DU_EMIT with the chunk at `a` read, from `s` at DU_CHUNK (R132 to R134). -/
def chunkRead (a : Nat) (s : State) : State :=
  goTo .duEmit { reading a (chunkStart s) 16 with sum := 0, pos := 0 }

/-- One turn of the outer loop: DU_CHUNK, the sixteen reads and the record. -/
theorem runsTo_chunk {a : Nat} {s : State} (hr : s.rst = false) (ht : s.txReady = true) (hs : s.st = .duChunk)
    (ho : s.op = .dump) (hcur : s.cur = BitVec.ofNat 14 a) (ha : a < 8192) :
    RunsTo inProgress (1 + 16 * 14 + 1 + dataLength) s (dataEnd (chunkRead a s)) := by
  have hcall : micro s = chunkStart s := by
    have hin : curInRange s = true := by
      rw [curInRange_iff, hcur, BitVec.toNat_ofNat]
      omega
    rw [micro_eq_fsmStep hr]
    simp only [fsmStep, hs, duChunkStep, hin, if_true]
    rfl
  have hreads : RunsTo inProgress (16 * 14) (chunkStart s) (reading a (chunkStart s) 16) :=
    runsTo_reading hr rfl ho hcur rfl (Nat.le_refl 16)
  have hemit : micro (reading a (chunkStart s) 16) = chunkRead a s := micro_eq_fsmStep hr
  have hrecord : RunsTo inProgress dataLength (chunkRead a s) (dataEnd (chunkRead a s)) :=
    (runsTo_dataEnd (s := chunkRead a s) hr ht rfl rfl rfl).toInProgress (by decide)
  have hgo : inProgress s.st = true := by rw [hs]; rfl
  exact (((RunsTo.one hgo hcall).trans hreads).trans (.one rfl hemit)).trans hrecord

/-- At DU_CHUNK after the first `j` chunks of a dump, from `s` at DU_CHUNK before them. -/
def chunksDone (s : State) : Nat → State
  | 0 => s
  | j + 1 =>
    { afterReads (16 * (j + 1)) (BitVec.ofNat 13 (16 * j + 15)) s with
      cur := BitVec.ofNat 14 (16 * (j + 1)), idx := 16, buf := walkChunk s j,
      sum := sumBytes (fieldBytes (BitVec.ofNat 14 (16 * j)) (walkChunk s j)),
      pos := BitVec.ofNat 6 (42 + Config.eol.length),
      trace := s.trace ++ chunksFrom 0 ((List.range (j + 1)).map (walkChunk s)) }

section
variable (s : State) (j : Nat)

@[simp] theorem chunksDone_st : (chunksDone s j).st = s.st := by cases j <;> rfl
@[simp] theorem chunksDone_op : (chunksDone s j).op = s.op := by cases j <;> rfl
@[simp] theorem chunksDone_rst : (chunksDone s j).rst = s.rst := by cases j <;> rfl
@[simp] theorem chunksDone_txReady : (chunksDone s j).txReady = s.txReady := by cases j <;> rfl

theorem chunksDone_cur (h : s.cur = 0) : (chunksDone s j).cur = BitVec.ofNat 14 (16 * j) := by
  cases j
  · exact h
  · rfl

@[simp] theorem chunksDone_trace :
    (chunksDone s j).trace = s.trace ++ chunksFrom 0 ((List.range j).map (walkChunk s)) := by
  cases j
  · exact (List.append_nil s.trace).symm
  · rfl

/-- The chunk's reads are the walk's. -/
theorem answerFrom_chunksDone (k : Nat) :
    answerFrom (16 * j) (chunkStart (chunksDone s j)) k = walkByte s (16 * j + k) := by
  cases j <;> exact answerAt_add k _ rfl rfl rfl rfl rfl rfl

theorem partChunk_chunksDone :
    partChunk (16 * j) (chunkStart (chunksDone s j)) 16 = walkChunk s j := by
  refine Vector.ext fun k hk => ?_
  rw [walkChunk_getElem s j hk]
  simp [partChunk, answerFrom_chunksDone]

theorem readsFrom_chunksDone :
    readsFrom (16 * j)
      ((List.range 16).map (answerFrom (16 * j) (chunkStart (chunksDone s j)))) =
      readsFrom (16 * j) (walkChunk s j).toList := by
  rw [walkChunk_toList, funext (answerFrom_chunksDone s j)]

/-- One more chunk adds its reads and its record to the events. -/
theorem chunksFrom_range_succ :
    chunksFrom 0 ((List.range (j + 1)).map (walkChunk s)) = chunksFrom 0 ((List.range j).map (walkChunk s)) ++
      (readsFrom (16 * j) (walkChunk s j).toList ++
        (dataText (BitVec.ofNat 14 (16 * j)) (walkChunk s j)).map .tx) := by
  simp [List.range_succ, chunksFrom_append, chunksFrom]

end

/-- A turn of the outer loop leaves the closed form of one more chunk. -/
theorem dataEnd_chunkRead_chunksDone {s : State} (hs : s.st = .duChunk) (hcur : s.cur = 0) (j : Nat) :
    dataEnd (chunkRead (16 * j) (chunksDone s j)) = chunksDone s (j + 1) := by
  have hcurj : (chunksDone s j).cur = BitVec.ofNat 14 (16 * j) := chunksDone_cur s j hcur
  have hnext : BitVec.ofNat 14 (16 * j) + 16 = BitVec.ofNat 14 (16 * (j + 1)) := (BitVec.ofNat_add (16 * j) 16).symm
  have hdata : answerAt (chunkStart (chunksDone s j)) 15 (BitVec.ofNat 13 (16 * j + 15)) =
      answerAt s (16 * (j + 1) - 1) (BitVec.ofNat 13 (16 * j + 15)) := answerFrom_chunksDone s j 15
  have hbuf : (chunkRead (16 * j) (chunksDone s j)).buf = walkChunk s j := partChunk_chunksDone s j
  have hcur' : (chunkRead (16 * j) (chunksDone s j)).cur = BitVec.ofNat 14 (16 * j) := hcurj
  have htrace : (chunkRead (16 * j) (chunksDone s j)).trace =
      s.trace ++ chunksFrom 0 ((List.range j).map (walkChunk s)) ++ readsFrom (16 * j) (walkChunk s j).toList := by
    rw [← chunksDone_trace, ← readsFrom_chunksDone]
    rfl
  rw [dataEnd, hbuf, hcur', hnext, htrace, chunksDone, chunksFrom_range_succ]
  simp only [chunkRead, reading, afterReads, goTo, List.append_assoc, hs]
  rw [hdata]
  cases j <;> rfl

/-- The 512 turns of the outer loop (R145). -/
theorem runsTo_chunksDone {s : State} (hr : s.rst = false) (ht : s.txReady = true) (hs : s.st = .duChunk)
    (ho : s.op = .dump) (hcur : s.cur = 0) :
    RunsTo inProgress (512 * (1 + 16 * 14 + 1 + dataLength)) s (chunksDone s 512) := by
  refine RunsTo.loop (f := chunksDone s) fun j hj => ?_
  rw [← dataEnd_chunkRead_chunksDone hs hcur]
  exact runsTo_chunk (by rw [chunksDone_rst, hr]) (by rw [chunksDone_txReady, ht]) (by rw [chunksDone_st, hs])
    (by rw [chunksDone_op, ho]) (chunksDone_cur s j hcur) (by omega)

/-- The state at DU_CHUNK before the first chunk of a dump (R131). -/
def dumpStart (x : Addr) (s : State) : State := duInitStep (accept .dump x s)

/-- The state at DU_EOF after the last chunk of a dump (R132). -/
def dumpLast (x : Addr) (s : State) : State := goTo .duEof { chunksDone (dumpStart x s) 512 with pos := 0 }

/-- The registers and the trace after the response are those of the closed form (R130, R137). -/
theorem respond_eofEnd_dumpLast (x : Addr) (s : State) : respond .dump (eofEnd (dumpLast x s)) = dumpEnd x s := rfl

/-- DUMP from its acceptance to IDLE, with the sink ready, in the micro-steps of R150. -/
theorem runsTo_dumpEnd {s : State} (h : Ready s) (ht : s.txReady = true) (x : Addr) :
    RunsTo inProgress dumpSteps (accept .dump x s) (dumpEnd x s) := by
  obtain ⟨hr, -⟩ := h
  have hinit : micro (accept .dump x s) = dumpStart x s := micro_eq_fsmStep hr
  have hchunks := runsTo_chunksDone (s := dumpStart x s) hr ht rfl rfl rfl
  have hlast : micro (chunksDone (dumpStart x s) 512) = dumpLast x s := micro_eq_fsmStep hr
  have heof : RunsTo inProgress eofLength (dumpLast x s) (eofEnd (dumpLast x s)) :=
    (runsTo_eofEnd (s := dumpLast x s) hr ht rfl rfl).toInProgress (by decide)
  have hret : micro (eofEnd (dumpLast x s)) = dumpEnd x s :=
    (micro_eq_fsmStep (s := eofEnd (dumpLast x s)) hr).trans (respond_eofEnd_dumpLast x s)
  exact ((((RunsTo.one rfl hinit).trans hchunks).trans (.one rfl hlast)).trans heof).trans (.one rfl hret)

/-- DUMP is its acceptance and the run of its micro-steps to IDLE. -/
theorem exec_dump {s : State} (h : Ready s) (ht : s.txReady = true) (x : Addr) :
    exec (.dump x) s = .next (dumpEnd x s) :=
  congrArg Host.Outcome.next
    ((runCommand_ready h .dump x dumpSteps).trans (runsTo_dumpEnd h ht x).runWhile_eq)

end Sys2Proof.Machine

/-! ### The stream of a dump (30_encoding.md R73; 41_dump_encoder.md R145) -/

namespace Sys2Proof

open Machine

theorem sinkBytes_chunksFrom (a : Nat) (bs : List Chunk) : sinkBytes (chunksFrom a bs) = recordsFrom a bs := by
  induction bs generalizing a with
  | nil => rfl
  | cons b bs ih => simp [chunksFrom, recordsFrom, sinkBytes_append, sinkBytes_readsFrom, sinkBytes_tx, ih]

theorem recordsFrom_length (a : Nat) (bs : List Chunk) : (recordsFrom a bs).length = bs.length * dataLength := by
  induction bs generalizing a with
  | nil => simp [recordsFrom]
  | cons b bs ih => simp [recordsFrom, dataText_length, ih, Nat.add_mul, Nat.add_comm]

theorem walkChunks_length (s : State) : (walkChunks s).length = 512 := by simp [walkChunks]

theorem walkChunks_getElem? {s : State} {j : Nat} (h : j < 512) : (walkChunks s)[j]? = some (walkChunk s j) := by
  simp [walkChunks, List.getElem?_range h]

/-- A dump sends the records of its chunks, then the end record. -/
theorem sinkBytes_dumpEnd (x : Addr) (s : State) :
    sinkBytes (dumpEnd x s).trace = sinkBytes s.trace ++ (recordsFrom 0 (walkChunks s) ++ eofText) := by
  simp [dumpEnd, sinkBytes_append, sinkBytes_chunksFrom, sinkBytes_tx, sinkBytes]

end Sys2Proof

section
open Sys2Proof Sys2Proof.Machine

/-- Settles O35: a dump ends in the closed form of R130, whose chunks are those of the walk. -/
theorem dumpStream : Obligations.DumpStream := by
  intro s x h ht
  refine ⟨dumpEnd x s, walkChunks s, exec_dump h ht x, walkChunks_length s, sinkBytes_dumpEnd x s, ?_,
    fun j b hb i => ?_⟩
  · rw [List.length_append, recordsFrom_length, walkChunks_length, eofText_length, dataLength_rrc, eofLength_rrc]
    omega
  · have hj : j < 512 := walkChunks_length s ▸ (List.getElem?_eq_some_iff.1 hb).1
    obtain rfl : walkChunk s j = b := Option.some.inj ((walkChunks_getElem? hj).symm.trans hb)
    exact walkChunk_getElem s j i.isLt

end

/-! ### The micro-steps of the Device Interface (40_device_interface.md R91 to R110) -/

namespace Sys2Proof.Machine

/-- With the FSM state written out, a micro-step evaluates to what that state's rule writes. -/
theorem micro_at {s : State} {f : Fsm} (hr : s.rst = false) (hs : s.st = f) : micro s = fsmStep { s with st := f } := by
  subst hs
  exact micro_eq_fsmStep hr

/-- INIT_CL (R94). -/
theorem micro_initCl {s : State} (hr : s.rst = false) (hs : s.st = .initCl) :
    micro s =
      { s with
        st := .initCm, latCe := true, latOe := true, latCeKnown := true, latOeKnown := true,
        trace := s.trace ++ [.drive .ce true, .drive .oe true] } := by
  have htrace : s.trace ++ [.drive .ce true, .drive .oe true] = s.trace ++ [.drive .ce true] ++ [.drive .oe true] := by
    simp
  rw [htrace]
  exact micro_at hr hs

/-- A latch shows on no pin while its line is an input (10_state.md R13). -/
theorem pin_micro_initCl {s : State} (hr : s.rst = false) (hs : s.st = .initCl) (hce : s.dirCe = .inp)
    (hoe : s.dirOe = .inp) (l : Line) : pin (micro s) l = pin s l := by
  rw [micro_initCl hr hs]
  cases l <;> simp [pin, dir, pinOf, hce, hoe]

/-- RD_ADDR drives the twelve levels of `ADDR`, the first twelve events of a read (R93, R100). -/
theorem driveAddrEvents_effectiveAddr (a : Addr) (d : Byte) :
    driveAddrEvents (effectiveAddr a) = (readEvents a d).take 12 := by
  simp [driveAddrEvents, addrIndices_rrc, readEvents, effectiveAddr_rrc]

end Sys2Proof.Machine

section
open Sys2Proof Sys2Proof.Machine

/-- Settles O14: the latches are the address without bit 12, and the events report their bits. -/
theorem addressReachesTheLines : Obligations.AddressReachesTheLines := by
  intro s hr hs
  rw [micro_at hr hs]
  have hlat : (fsmStep { s with st := .rdAddr }).latA = effectiveAddr s.addr := rfl
  have htrace : (fsmStep { s with st := .rdAddr }).trace = s.trace ++ driveAddrEvents (effectiveAddr s.addr) := rfl
  rw [hlat, htrace, effectiveAddr_toNat, driveAddrEvents_effectiveAddr s.addr 0]
  exact ⟨rfl, rfl, fun i => by simp [effectiveAddr_rrc], rfl, rfl⟩

/-- Settles O12: each state's rule evaluated; a pin shows the latch of a line that is an output. -/
theorem initStatesStep : Obligations.InitStatesStep := by
  intro s hr
  refine ⟨micro_at hr, micro_at hr, micro_initCl hr, micro_at hr, micro_at hr, pin_micro_initCl hr,
    fun hs hce hoe hceKnown hoeKnown => ?_⟩
  rw [micro_at hr hs]
  simp [fsmStep, initCmStep, controlLinesOut, pin, dir, pinOf, hce, hoe, hceKnown, hoeKnown]

/-- Settles O13: each state's rule evaluated. -/
theorem readControlStatesStep : Obligations.ReadControlStatesStep := fun _ hr =>
  ⟨micro_at hr, micro_at hr, micro_at hr, micro_at hr, micro_at hr⟩

end

/-! ### INIT as a whole (40_device_interface.md R90, R113) -/

namespace Sys2Proof.Machine

theorem RunsTo.fsmStep {go : Fsm → Bool} {s : State} (hgo : go s.st = true) (hr : s.rst = false) :
    RunsTo go 1 s (fsmStep s) :=
  .one hgo (micro_eq_fsmStep hr)

theorem RunsTo.mono {go go' : Fsm → Bool} {n : Nat} {s t : State} (h : RunsTo go n s t)
    (hgo : ∀ f, go f = true → go' f = true) : RunsTo go' n s t :=
  ⟨h.1, fun k hk => hgo _ (h.2 k hk)⟩

/-- The five states of INIT. -/
def inInit (f : Fsm) : Bool := f == .initAm || f == .initDm || f == .initCl || f == .initCm || f == .initRet

/-- INIT's five states in order, from its acceptance to IDLE. -/
theorem runsTo_initEnd {s : State} (h : Ready s) (x : Addr) :
    RunsTo inInit initSteps (accept .init x s) (initEnd x s) := by
  have hr : (accept .init x s).rst = false := h.1
  have hend : fsmStep (fsmStep (fsmStep (fsmStep (fsmStep (accept .init x s))))) = initEnd x s := by
    simp [initEnd, initEvents, accept, fsmStep, initAmStep, initDmStep, initClStep, initCmStep, initRetStep,
      addrLinesOut, dataLinesIn, driveCe, driveOe, controlLinesOut, respond, goTo, emit, modeAddrEvents,
      modeDataEvents, addrIndices_rrc, dataIndices_rrc]
  have hAm : RunsTo inInit 1 (accept .init x s) _ := .fsmStep rfl hr
  rw [← hend]
  exact (((hAm.trans (.fsmStep rfl hr)).trans (.fsmStep rfl hr)).trans (.fsmStep rfl hr)).trans (.fsmStep rfl hr)

theorem inProgress_of_inInit {f : Fsm} (h : inInit f = true) : inProgress f = true :=
  bne_iff_ne.2 fun hf => by simp [hf, inInit] at h

/-- INIT is its acceptance and the run of its five states. -/
theorem exec_init {s : State} (h : Ready s) (x : Addr) : exec (.init x) s = .next (initEnd x s) :=
  congrArg Host.Outcome.next
    ((runCommand_ready h .init x initSteps).trans
      ((runsTo_initEnd h x).mono fun _ => inProgress_of_inInit).runWhile_eq)

/-- `t` is `s` but for `OP`, `ST` and the trace: every direction and latch stands as it did. -/
def LinesUntouched (s t : State) : Prop :=
  ∃ (o : Op) (f : Fsm) (es : List Event), t = { s with op := o, st := f, trace := es }

theorem LinesUntouched.trans {s t u : State} (hst : LinesUntouched s t) (htu : LinesUntouched t u) :
    LinesUntouched s u := by
  obtain ⟨_, _, _, rfl⟩ := hst
  obtain ⟨o, f, es, rfl⟩ := htu
  exact ⟨o, f, es, rfl⟩

theorem LinesUntouched.pin_eq {s t : State} (h : LinesUntouched s t) (l : Line) : pin t l = pin s l := by
  obtain ⟨_, _, _, rfl⟩ := h
  cases l <;> rfl

theorem LinesUntouched.initialised {s t : State} (h : LinesUntouched s t) (hi : Initialised s) : Initialised t := by
  obtain ⟨_, _, _, rfl⟩ := h
  exact hi

/-- What a state of INIT writes to the lines stands there already once they are configured and inactive (R113). -/
theorem micro_linesUntouched {s : State} (hr : s.rst = false) (hi : Initialised s) (hs : inInit s.st = true) :
    LinesUntouched s (micro s) := by
  obtain ⟨hA, hD, hCe, hOe, hlatCe, hlatOe, hknownCe, hknownOe⟩ := hi
  refine ⟨s.op, (micro s).st, (micro s).trace, ?_⟩
  simp only [inInit, Bool.or_eq_true, beq_iff_eq] at hs
  obtain (((hs | hs) | hs) | hs) | hs := hs <;> rw [micro_at hr hs]
  · simp [fsmStep, initAmStep, addrLinesOut, goTo, emit, hA]
  · simp [fsmStep, initDmStep, dataLinesIn, goTo, emit, hD]
  · simp [fsmStep, initClStep, driveCe, driveOe, goTo, emit, hlatCe, hlatOe, hknownCe, hknownOe]
  · simp [fsmStep, initCmStep, controlLinesOut, goTo, emit, hCe, hOe]
  · rfl

theorem microN_init_linesUntouched {s : State} (h : Ready s) (hi : Initialised s) (x : Addr) {n : Nat}
    (hn : n ≤ initSteps) : LinesUntouched s (microN n (accept .init x s)) := by
  induction n with
  | zero => exact ⟨.init, .initAm, _, rfl⟩
  | succ n ih =>
    have huntouched := ih (Nat.le_of_succ_le hn)
    have hin : inInit (microN n (accept .init x s)).st = true := (runsTo_initEnd h x).2 n hn
    have hr : (microN n (accept .init x s)).rst = false := by
      obtain ⟨_, _, _, ht⟩ := huntouched
      rw [ht]
      exact h.1
    rw [microN_add n 1]
    exact huntouched.trans (micro_linesUntouched hr (huntouched.initialised hi) hin)

end Sys2Proof.Machine

section
open Sys2Proof Sys2Proof.Machine

/-- Settles O24: the run of INIT's five states ends in the closed form of R90. -/
theorem initCompletes : Obligations.InitCompletes := fun _ x h => exec_init h x

/-- Settles O25: INIT's closed form reads none of what it writes, and on configured lines no state of it changes a
direction or a latch. -/
theorem initIsIdempotent : Obligations.InitIsIdempotent := by
  refine ⟨fun s t u x h ht hu => ?_, fun s x n l h hi hn => (microN_init_linesUntouched h hi x hn).pin_eq l⟩
  obtain rfl : initEnd x s = t := Host.Outcome.next.inj ((exec_init h x).symm.trans ht)
  have hready : Ready (initEnd x s) := ⟨h.1, rfl⟩
  obtain rfl : initEnd x (initEnd x s) = u := Host.Outcome.next.inj ((exec_init hready x).symm.trans hu)
  exact ⟨rfl, rfl, rfl, rfl, rfl, rfl, rfl, .cmd .init x :: initEvents ++ [.rsp .init], by simp [initEnd],
    by simp [initEnd]⟩

end

/-! ### READ and the return of the read sequence (40_device_interface.md R97, R111, R112) -/

namespace Sys2Proof.Machine

/-- The twelfth step of the read sequence is RD_RET, where the byte has been read. -/
theorem microN_readSequence_return {s : State} (hr : s.rst = false) (hs : s.st = .rdAddr) :
    microN 12 s = rdRetStep (readInto .rdRet s.addr s) := by
  have hret : micro (readInto .rdRet s.addr s) = rdRetStep (readInto .rdRet s.addr s) := micro_eq_fsmStep hr
  rw [microN_add 11 1, microN_readSequence hr hs]
  exact hret

theorem rdRetStep_of_read {s : State} (h : s.op = .read) : rdRetStep s = respond (.read s.data) s := by
  rw [rdRetStep, h]

theorem rdRetStep_of_scan {s : State} (h : s.op = .scan) : rdRetStep s = goTo .scTest s := by
  rw [rdRetStep, h]

theorem rdRetStep_of_dump {s : State} (h : s.op = .dump) : rdRetStep s = goTo .duStore s := by
  rw [rdRetStep, h]

end Sys2Proof.Machine

section
open Sys2Proof Sys2Proof.Machine

/-- Settles O27: acceptance, the read sequence and the delivery of the sampled byte. -/
theorem readCompletes : Obligations.ReadCompletes := fun _ a h => exec_read h a

/-- Settles O28: eleven steps without a branch read the byte, and RD_RET returns it to the one who asked. -/
theorem readSequenceIsTwelveSteps : Obligations.ReadSequenceIsTwelveSteps := by
  intro s hr hs
  have hread : microN 11 s = readInto .rdRet s.addr s := microN_readSequence hr hs
  rw [hread, microN_readSequence_return hr hs]
  refine ⟨readSequence_states hr hs, rfl, fun ho => ?_, fun ho => ?_, fun ho => ?_⟩
  · rw [rdRetStep_of_read (s := readInto .rdRet s.addr s) ho]
    exact ⟨rfl, rfl⟩
  · rw [rdRetStep_of_scan (s := readInto .rdRet s.addr s) ho]
    exact ⟨rfl, rfl⟩
  · rw [rdRetStep_of_dump (s := readInto .rdRet s.addr s) ho]
    exact ⟨rfl, rfl⟩

end

/-! ### No fault and no refusal (40_device_interface.md R114; 60_exceptions.md R180) -/

namespace Sys2Proof.Machine

theorem exec_total (i : Instr) (s : State) : ∃ t : State, exec i s = .next t := by
  cases i <;> exact ⟨_, rfl⟩

theorem step_total (s : State) : ∃ t : State, step s = .next t := by
  unfold step
  split
  · exact exec_total _ _
  · exact ⟨_, rfl⟩

end Sys2Proof.Machine

section
open Sys2Proof Sys2Proof.Machine

/-- Settles O42: every arm of `exec` answers a next state, and `step` is an instruction or a micro-step. -/
theorem everyOperationIsTotal : Obligations.EveryOperationIsTotal := ⟨step_total, exec_total⟩

end

/-! ### The checksum and the end record's characters (41_dump_encoder.md R140, R142, R144) -/

namespace Sys2Proof.Machine

theorem hi8_toNat (a : Count) : (hi8 a).toNat = a.toNat / 256 := by
  have ha := a.isLt
  simp [hi8, Nat.shiftRight_eq_div_pow]
  omega

theorem lo8_toNat (a : Count) : (lo8 a).toNat = a.toNat % 256 := by
  simp [lo8]

/-- The field bytes as numbers (R142). -/
theorem fieldBytes_map_toNat (a : Count) (b : Chunk) :
    (fieldBytes a b).map BitVec.toNat = [16, a.toNat / 256, a.toNat % 256, 0] ++ b.toList.map BitVec.toNat := by
  simp [fieldBytes_rrc, hi8_toNat, lo8_toNat]

theorem sumBytes_toNat (l : List Byte) : (sumBytes l).toNat = (l.map BitVec.toNat).sum % 256 := by
  induction l with
  | nil => rfl
  | cons x xs ih => simp [sumBytes, ih]

theorem twosComplement_toNat (b : Byte) : (twosComplement b).toNat = (256 - b.toNat) % 256 := BitVec.toNat_ofNat ..

end Sys2Proof.Machine

section
open Sys2Proof Sys2Proof.Machine

/-- Settles O5: the sum of bytes is the sum of their numbers modulo 256. -/
theorem checksumLaw : Obligations.ChecksumLaw := by
  intro a b fields
  have hck : (checksum a b).toNat = (256 - fields.sum % 256) % 256 := by
    rw [checksum, twosComplement_toNat, sumBytes_toNat, fieldBytes_map_toNat]
  refine ⟨hck, ?_⟩
  rw [hck]
  omega

/-- Settles O7: the literal is the encoder's constant table. -/
theorem endCharactersSpellTheLiteral : Obligations.EndCharactersSpellTheLiteral := fun _ hp => eofText_getElem? hp

end

/-! ### The micro-steps of the Dump Encoder (41_dump_encoder.md R121 to R124, R131 to R137) -/

namespace Sys2Proof.Machine

theorem scanAddr_eq_ofNat (cur : Count) : scanAddr cur = BitVec.ofNat 13 cur.toNat := (BitVec.ofNat_toNat 13 cur).symm

theorem dumpAddr_eq_ofNat (cur : Count) (idx : BitVec 5) :
    dumpAddr cur idx = BitVec.ofNat 13 (cur.toNat + idx.toNat) := by
  apply BitVec.eq_of_toNat_eq
  simp [dumpAddr]

section
variable {s : State} (hr : s.rst = false)
include hr

/-- SC_CALL calls a read while the loop runs (R122). -/
theorem micro_scCall (hs : s.st = .scCall) (hcur : s.cur.toNat < 8192) :
    micro s = { s with st := .rdAddr, addr := BitVec.ofNat 13 s.cur.toNat } := by
  rw [micro_at hr hs, ← scanAddr_eq_ofNat]
  exact if_pos ((curInRange_iff s).2 hcur)

/-- SC_CALL ends the loop at the sentinel (R122). -/
theorem micro_scCall_end (hs : s.st = .scCall) (hcur : 8192 ≤ s.cur.toNat) :
    micro s = { s with st := .scRet, res := 8192 } := by
  rw [micro_at hr hs]
  exact if_neg (mt (curInRange_iff s).1 (Nat.not_lt.2 hcur))

/-- SC_TEST leaves the loop at a byte that is not empty (R123). -/
theorem micro_scTest_hit (hs : s.st = .scTest) (hd : s.data ≠ 0xFF) :
    micro s = { s with st := .scRet, res := s.cur } := by
  rw [micro_at hr hs]
  exact if_pos ((dataNonEmpty_iff s).2 hd)

/-- SC_TEST goes on after an empty byte (R123). -/
theorem micro_scTest_empty (hs : s.st = .scTest) (hd : s.data = 0xFF) :
    micro s = { s with st := .scCall, cur := s.cur + 1 } := by
  rw [micro_at hr hs]
  exact if_neg (mt (dataNonEmpty_iff s).1 (not_not_intro hd))

/-- DU_CHUNK starts a chunk (R132). -/
theorem micro_duChunk (hs : s.st = .duChunk) (hcur : s.cur.toNat < 8192) :
    micro s = { s with st := .duCall, idx := 0 } := by
  rw [micro_at hr hs]
  exact if_pos ((curInRange_iff s).2 hcur)

/-- DU_CHUNK starts the end record after the last chunk (R132). -/
theorem micro_duChunk_end (hs : s.st = .duChunk) (hcur : 8192 ≤ s.cur.toNat) :
    micro s = { s with st := .duEof, pos := 0 } := by
  rw [micro_at hr hs]
  exact if_neg (mt (curInRange_iff s).1 (Nat.not_lt.2 hcur))

/-- DU_CALL calls a read within the chunk (R133). -/
theorem micro_duCall (hs : s.st = .duCall) (hidx : s.idx.toNat < 16) :
    micro s = { s with st := .rdAddr, addr := BitVec.ofNat 13 (s.cur.toNat + s.idx.toNat) } := by
  rw [micro_at hr hs, ← dumpAddr_eq_ofNat]
  exact if_pos ((idxInRange_iff s).2 hidx)

/-- DU_CALL starts the record after the chunk's last byte (R133). -/
theorem micro_duCall_end (hs : s.st = .duCall) (hidx : 16 ≤ s.idx.toNat) :
    micro s = { s with st := .duEmit, sum := 0, pos := 0 } := by
  rw [micro_at hr hs]
  exact if_neg (mt (idxInRange_iff s).1 (Nat.not_lt.2 hidx))

/-- DU_STORE writes the byte at its index (R134). -/
theorem micro_duStore (hs : s.st = .duStore) (hidx : s.idx.toNat < 16) :
    micro s = { s with st := .duCall, buf := s.buf.set s.idx.toNat s.data hidx, idx := s.idx + 1 } := by
  have hstore : storeByte s = s.buf.set s.idx.toNat s.data hidx := dif_pos hidx
  rw [micro_at hr hs, ← hstore]
  rfl

/-- With the sink not ready a state that sends holds (42_dispatch_and_interfaces.md R166). -/
theorem micro_hold (hs : s.st = .duEmit ∨ s.st = .duEof) (ht : s.txReady = false) : micro s = s := by
  have hnot : ¬s.txReady = true := by simp [ht]
  rw [micro_eq_fsmStep hr]
  obtain hs | hs := hs <;> simp only [fsmStep, hs, duEmitStep, duEofStep, if_neg hnot]

end

section
variable {s : State}

/-- `SUM` takes field byte `k` where its high digit is sent (R135). -/
theorem nextSum_of_highDigit {k : Nat} (hp : s.pos.toNat = 2 * k + 1) (hk : k ≤ 19) :
    nextSum s = s.sum + (fieldBytes s.cur s.buf).getD k 0 := by
  have hadd : sumsAt s.pos.toNat = true := (sumsAt_iff _).2 (by omega)
  have hdiv : (s.pos.toNat - 1) / 2 = k := by omega
  rw [nextSum, if_pos hadd, hdiv]

/-- `SUM` stays at the start mark, the low digits, the checksum and the terminator (R135). -/
theorem nextSum_of_not_highDigit (hp : s.pos.toNat % 2 = 0 ∨ 39 < s.pos.toNat) : nextSum s = s.sum := by
  refine if_neg fun hadd => ?_
  obtain ⟨hodd, hlt⟩ := (sumsAt_iff _).1 hadd
  omega

variable (hr : s.rst = false) (ht : s.txReady = true)
include hr ht

/-- A character before the data record's last one (R135). -/
theorem micro_duEmit_next (hs : s.st = .duEmit) (hp : s.pos.toNat ≠ 42 + Config.eol.length) :
    micro s =
      { s with
        sum := nextSum s, pos := s.pos + 1,
        trace := s.trace ++ [.tx (datarecChar s.cur s.buf s.sum s.pos.toNat)] } := by
  rw [micro_duEmit hr ht hs, advanceData, if_neg (by rw [dataLength_rrc]; omega)]
  rfl

/-- The data record's last character (R135). -/
theorem micro_duEmit_last (hs : s.st = .duEmit) (hp : s.pos.toNat = 42 + Config.eol.length) :
    micro s =
      { s with
        st := .duChunk, sum := nextSum s, cur := s.cur + 16,
        trace := s.trace ++ [.tx (datarecChar s.cur s.buf s.sum s.pos.toNat)] } := by
  rw [micro_duEmit hr ht hs, advanceData, if_pos (by rw [dataLength_rrc]; omega)]
  rfl

/-- A character before the end record's last one (R136). -/
theorem micro_duEof_next (hs : s.st = .duEof) (hp : s.pos.toNat ≠ 10 + Config.eol.length) :
    micro s = { s with pos := s.pos + 1, trace := s.trace ++ [.tx (eofrecChar s.pos.toNat)] } := by
  rw [micro_duEof hr ht hs, advanceEof, if_neg (by rw [eofLength_rrc]; omega)]
  rfl

/-- The end record's last character (R136). -/
theorem micro_duEof_last (hs : s.st = .duEof) (hp : s.pos.toNat = 10 + Config.eol.length) :
    micro s = { s with st := .duRet, trace := s.trace ++ [.tx (eofrecChar s.pos.toNat)] } := by
  rw [micro_duEof hr ht hs, advanceEof, if_pos (by rw [eofLength_rrc]; omega)]
  rfl

end

end Sys2Proof.Machine

section
open Sys2Proof Sys2Proof.Machine

/-- Settles O15: each state's rule, the loop test and the emptiness test decided by their hypotheses. -/
theorem scanStatesStep : Obligations.ScanStatesStep := fun _ hr =>
  ⟨micro_at hr, micro_scCall hr, micro_scCall_end hr, micro_scTest_hit hr, micro_scTest_empty hr, micro_at hr⟩

/-- Settles O16: each state's rule, the two loop tests decided by their hypotheses. -/
theorem dumpWalkStatesStep : Obligations.DumpWalkStatesStep := fun _ hr =>
  ⟨micro_at hr, micro_duChunk hr, micro_duChunk_end hr, micro_duCall hr, micro_duCall_end hr, micro_duStore hr,
    micro_at hr⟩

/-- Settles O17: the sum after the character is `nextSum`, whose byte is added at the high digits alone. -/
theorem emitStateSendsOneCharacter : Obligations.EmitStateSendsOneCharacter := by
  intro s hr hs
  refine ⟨micro_hold hr (.inl hs), fun ht _ => ⟨_, nextSum s, rfl, fun k hp hk => ?_, nextSum_of_not_highDigit,
    micro_duEmit_last hr ht hs, fun hp => micro_duEmit_next hr ht hs hp.ne⟩⟩
  have hlen : k < (fieldBytes s.cur s.buf).length := by rw [fieldBytes_length]; omega
  rw [nextSum_of_highDigit hp hk, List.getD_eq_getElem _ _ hlen, List.getElem?_eq_getElem hlen]
  rfl

/-- Settles O18: the character's table and the last position's test read `POS` alone. -/
theorem eofStateSendsOneCharacter : Obligations.EofStateSendsOneCharacter := fun _ hr hs =>
  ⟨micro_hold hr (.inr hs), fun ht hp => micro_duEof_last hr ht hs hp,
    fun ht hp => micro_duEof_next hr ht hs hp.ne⟩

/-- Settles O34: the run of R150's micro-steps from the acceptance ends in the closed form of R130. -/
theorem dumpCompletes : Obligations.DumpCompletes := fun _ x h ht => exec_dump h ht x

end

/-! ### SCAN as a whole (41_dump_encoder.md R120 to R125) -/

namespace Sys2Proof.Machine

/-- The read sequence called by SCAN returns to SC_TEST (40_device_interface.md R111). -/
theorem runsTo_read_of_scan {s : State} (hr : s.rst = false) (hs : s.st = .rdAddr) (ho : s.op = .scan) :
    RunsTo inProgress 12 s (readInto .scTest s.addr s) := by
  have hret : micro (readInto .rdRet s.addr s) = rdRetStep (readInto .rdRet s.addr s) := micro_eq_fsmStep hr
  rw [rdRetStep_of_scan (s := readInto .rdRet s.addr s) ho] at hret
  exact (runsTo_read hr hs).trans (.one rfl hret)

/-- After the first `n` reads of a walk from `s`, but for `ST` and the walk's own registers. -/
def walked (s : State) : Nat → State
  | 0 => s
  | n + 1 =>
    { afterReads (n + 1) (BitVec.ofNat 13 n) s with trace := s.trace ++ readsFrom 0 (walkBytes s (n + 1)) }

/-- At SC_CALL after `n` reads of empty bytes, from `s` at SC_CALL before them. -/
def scanning (s : State) (n : Nat) : State := { walked s n with st := .scCall, cur := BitVec.ofNat 14 n }

/-- At SC_TEST after the read at `n`, the bytes before it empty. -/
def probing (s : State) (n : Nat) : State := { walked s (n + 1) with st := .scTest, cur := BitVec.ofNat 14 n }

section
variable (s : State) (n : Nat)

@[simp] theorem walked_op : (walked s n).op = s.op := by cases n <;> rfl
@[simp] theorem walked_rst : (walked s n).rst = s.rst := by cases n <;> rfl

theorem walked_trace : (walked s n).trace = s.trace ++ readsFrom 0 (walkBytes s n) := by
  cases n
  · exact (List.append_nil s.trace).symm
  · rfl

theorem answerAt_walked (a : Addr) : answerAt (walked s n) 0 a = answerAt s n a := by
  cases n
  · rfl
  · exact answerAt_add 0 a rfl rfl rfl rfl rfl rfl

/-- One more read of the walk adds its 29 events. -/
theorem readsFrom_walkBytes_succ :
    readsFrom 0 (walkBytes s (n + 1)) =
      readsFrom 0 (walkBytes s n) ++ readEvents (BitVec.ofNat 13 n) (walkByte s n) := by
  simp [walkBytes_succ, readsFrom_append, readsFrom, walkBytes_length]

theorem readInto_scanning :
    readInto .scTest (BitVec.ofNat 13 n) { scanning s n with st := .rdAddr, addr := BitVec.ofNat 13 n } =
      probing s n := by
  have hanswer : answerAt { scanning s n with st := .rdAddr, addr := BitVec.ofNat 13 n } 0 (BitVec.ofNat 13 n) =
      walkByte s n := answerAt_walked s n _
  have htrace : (walked s n).trace ++ readEvents (BitVec.ofNat 13 n) (walkByte s n) =
      s.trace ++ readsFrom 0 (walkBytes s (n + 1)) := by
    rw [walked_trace, readsFrom_walkBytes_succ, List.append_assoc]
  rw [readInto, afterReads, Nat.sub_self, hanswer, probing, walked, ← htrace]
  cases n <;> rfl

end

/-- The loop test and the read of one turn of the scan (R122). -/
theorem runsTo_probing {s : State} {n : Nat} (hr : s.rst = false) (ho : s.op = .scan) (hn : n < 8192) :
    RunsTo inProgress 13 (scanning s n) (probing s n) := by
  have hrn : (scanning s n).rst = false := (walked_rst s n).trans hr
  have hon : (scanning s n).op = .scan := (walked_op s n).trans ho
  have hcall : micro (scanning s n) = { scanning s n with st := .rdAddr, addr := BitVec.ofNat 13 n } := by
    have hcur : (scanning s n).cur.toNat = n := (BitVec.toNat_ofNat n 14).trans (Nat.mod_eq_of_lt (by omega))
    rw [micro_scCall hrn rfl (by rwa [hcur]), hcur]
  have hread := runsTo_read_of_scan (s := { scanning s n with st := .rdAddr, addr := BitVec.ofNat 13 n }) hrn rfl hon
  exact readInto_scanning s n ▸ (RunsTo.one rfl hcall).trans hread

/-- A turn that finds an empty byte goes on at the next address (R123). -/
theorem micro_probing_empty {s : State} {n : Nat} (hr : s.rst = false) (hd : walkByte s n = 0xFF) :
    micro (probing s n) = scanning s (n + 1) := by
  have hnext : BitVec.ofNat 14 n + 1 = BitVec.ofNat 14 (n + 1) := (BitVec.ofNat_add n 1).symm
  rw [micro_scTest_empty (s := probing s n) hr rfl hd, probing, hnext]
  rfl

/-- The turns of the scan over empty bytes. -/
theorem runsTo_scanning {s : State} {n : Nat} (hr : s.rst = false) (ho : s.op = .scan) (hn : n ≤ 8192)
    (hempty : ∀ a, a < n → walkByte s a = 0xFF) : RunsTo inProgress (n * 14) (scanning s 0) (scanning s n) :=
  RunsTo.loop (f := scanning s) fun i hi =>
    (runsTo_probing hr ho (by omega)).trans (.one rfl (micro_probing_empty hr (hempty i hi)))

/-- The state at SC_CALL before the first read of a scan (R121). -/
def scanStart (x : Addr) (s : State) : State := scInitStep (accept .scan x s)

theorem runsTo_scanStart {s : State} (h : Ready s) (x : Addr) :
    RunsTo inProgress 1 (accept .scan x s) (scanning (scanStart x s) 0) :=
  .one rfl (micro_eq_fsmStep h.1)

/-- The response at SC_RET ends a scan that stopped at `r` in its closed form (R124). -/
theorem micro_scRet_hit {s : State} (hr : s.rst = false) (x : Addr) (h : scanResult s < 8192) :
    micro { probing (scanStart x s) (scanResult s) with st := .scRet, res := BitVec.ofNat 14 (scanResult s) } =
      scanEnd x s := by
  have hreads : scanReads s = scanResult s + 1 := Nat.min_eq_left h
  rw [scanEnd, hreads]
  exact micro_at (f := .scRet) hr rfl

/-- The response at SC_RET ends a scan of an empty device in its closed form (R124). -/
theorem micro_scRet_empty {s : State} (hr : s.rst = false) (x : Addr) (h : scanResult s = 8192) :
    micro { scanning (scanStart x s) 8192 with st := .scRet, res := 8192 } = scanEnd x s := by
  have hreads : scanReads s = 8192 := by rw [scanReads, h]; rfl
  rw [scanEnd, hreads, h]
  exact micro_at (f := .scRet) hr rfl

/-- SCAN from its acceptance to IDLE where it finds a byte, in the micro-steps of R150. -/
theorem runsTo_scanEnd_hit {s : State} (h : Ready s) (x : Addr) (hres : scanResult s < 8192) :
    RunsTo inProgress (1 + (scanResult s + 1) * 14 + 1) (accept .scan x s) (scanEnd x s) := by
  obtain ⟨hr, -⟩ := id h
  obtain ⟨hhit, hempty⟩ := scanResult_hit hres
  have hloop := runsTo_scanning (s := scanStart x s) hr rfl (Nat.le_of_lt hres) hempty
  have hread := runsTo_probing (s := scanStart x s) hr rfl hres
  have htest := micro_scTest_hit (s := probing (scanStart x s) (scanResult s)) hr rfl hhit
  have hlen : 1 + (scanResult s + 1) * 14 + 1 = 1 + scanResult s * 14 + 13 + 1 + 1 := by omega
  rw [hlen]
  exact ((((runsTo_scanStart h x).trans hloop).trans hread).trans (.one rfl htest)).trans
    (.one rfl (micro_scRet_hit hr x hres))

/-- SCAN from its acceptance to IDLE on an empty device, in the micro-steps of R150. -/
theorem runsTo_scanEnd_empty {s : State} (h : Ready s) (x : Addr) (hres : scanResult s = 8192) :
    RunsTo inProgress scanSteps (accept .scan x s) (scanEnd x s) := by
  obtain ⟨hr, -⟩ := id h
  have hloop := runsTo_scanning (s := scanStart x s) hr rfl (Nat.le_refl 8192)
    (scanResult_empty (s := s) hres)
  have hlast := micro_scCall_end (s := scanning (scanStart x s) 8192) hr rfl (Nat.le_refl 8192)
  exact (((runsTo_scanStart h x).trans hloop).trans (.one rfl hlast)).trans
    (.one rfl (micro_scRet_empty hr x hres))

/-- A run that is over within its bound. -/
theorem RunsTo.runWhile_of_le {go : Fsm → Bool} {m n : Nat} {s t : State} (h : RunsTo go n s t)
    (hstop : go t.st = false) (hle : n ≤ m) : runWhile go m s = t := by
  obtain ⟨rfl, hgo⟩ := h
  obtain ⟨k, rfl⟩ := Nat.exists_eq_add_of_le hle
  rw [runWhile_microN n k hgo, runWhile_stop hstop]

/-- SCAN is its acceptance and the run of its micro-steps to IDLE. -/
theorem exec_scan {s : State} (h : Ready s) (x : Addr) : exec (.scan x) s = .next (scanEnd x s) := by
  refine congrArg Host.Outcome.next ((runCommand_ready h .scan x scanSteps).trans ?_)
  obtain hlt | heq := Nat.lt_or_eq_of_le (scanResult_le s)
  · exact (runsTo_scanEnd_hit h x hlt).runWhile_of_le rfl (by rw [scanSteps_rrc]; omega)
  · exact (runsTo_scanEnd_empty h x heq).runWhile_eq

theorem scanEnd_res_toNat (x : Addr) (s : State) : (scanEnd x s).res.toNat = scanResult s := by
  have hle := scanResult_le s
  exact (BitVec.toNat_ofNat ..).trans (Nat.mod_eq_of_lt (by omega))

end Sys2Proof.Machine

section
open Sys2Proof Sys2Proof.Machine

/-- Settles O31: the turns of the scan up to the first byte that is not empty, or to the sentinel. -/
theorem scanCompletes : Obligations.ScanCompletes := fun _ x h => exec_scan h x

/-- Settles O32: the closed form reads the walk's first `scanReads` bytes, whose last is the least that is not empty. -/
theorem scanIsShortCircuit : Obligations.ScanIsShortCircuit := by
  intro s x h
  refine ⟨scanEnd x s, walkBytes s (scanReads s), exec_scan h x, rfl, rfl, ?_⟩
  rw [scanEnd_res_toNat, walkBytes_length]
  refine ⟨scanResult_le s, fun hlt => ?_, fun heq => ?_⟩
  · have hreads : scanReads s = scanResult s + 1 := Nat.min_eq_left hlt
    obtain ⟨hhit, hempty⟩ := scanResult_hit hlt
    rw [hreads]
    refine ⟨rfl, ⟨_, walkBytes_getElem? (Nat.lt_succ_self _), hhit⟩, fun a ha => ?_⟩
    rw [walkBytes_getElem? (Nat.lt_succ_of_lt ha), hempty a ha]
  · have hreads : scanReads s = 8192 := by rw [scanReads, heq]; rfl
    rw [hreads]
    refine ⟨rfl, fun d hd => ?_⟩
    obtain ⟨a, ha, rfl⟩ := List.mem_map.1 hd
    exact scanResult_empty heq a (List.mem_range.1 ha)

end

/-! ### The micro-steps of each command (41_dump_encoder.md R150) -/

namespace Sys2Proof.Machine

/-- READ from its acceptance to IDLE. -/
theorem runsTo_readEnd {s : State} (h : Ready s) (a : Addr) :
    RunsTo inProgress 12 (accept .read a s) (readEnd a s) := by
  have hret : micro (readInto .rdRet a (accept .read a s)) = readEnd a s := micro_eq_fsmStep h.1
  exact (runsTo_read (s := accept .read a s) h.1 rfl).trans (.one rfl hret)

/-- The instruction of a command word (30_encoding.md R60). -/
def command : Op → Addr → Instr
  | .init => .init
  | .read => .read
  | .scan => .scan
  | .dump => .dump

theorem decodeWord_cmdWord (o : Op) (x : Addr) : decodeWord (cmdWord o x) = command o x := by
  rw [decodeWord, cmdOp_cmdWord, cmdAddr_cmdWord]
  cases o <;> rfl

/-- A command that ends where a run to IDLE ends takes exactly the run's micro-steps. -/
theorem RunsTo.takes {n : Nat} {o : Op} {x : Addr} {s t : State} (h : RunsTo inProgress n (accept o x s) t)
    (hexec : exec (command o x) s = .next t) (hidle : t.st = .idle) :
    exec (decodeWord (cmdWord o x)) s = .next (microN n (accept o x s)) ∧ (microN n (accept o x s)).st = .idle ∧
      ∀ m, m < n → (microN m (accept o x s)).st ≠ .idle := by
  obtain ⟨rfl, hgo⟩ := h
  rw [decodeWord_cmdWord]
  exact ⟨hexec, hidle, fun m hm => bne_iff_ne.1 (hgo m hm)⟩

end Sys2Proof.Machine

section
open Sys2Proof Sys2Proof.Machine

/-- Settles O40: each command's run to its closed form has the length of R150. -/
theorem stepCounts : Obligations.StepCounts := by
  intro s x h takes
  have hinit : RunsTo inProgress 5 (accept .init x s) (initEnd x s) :=
    (runsTo_initEnd h x).mono fun _ => inProgress_of_inInit
  refine ⟨?_, ?_, fun hres => ?_, fun hres => ?_, fun ht => ?_⟩
  · exact hinit.takes (exec_init h x) rfl
  · exact (runsTo_readEnd h x).takes (exec_read h x) rfl
  · exact (runsTo_scanEnd_hit h x hres).takes (exec_scan h x) rfl
  · exact (runsTo_scanEnd_empty h x hres).takes (exec_scan h x) rfl
  · have hlen : 1 + 512 * (1 + 16 * 14 + 1 + 43 + Config.eol.length) + 1 + 11 + Config.eol.length + 1 = dumpSteps := by
      rw [dumpSteps_rrc]
      omega
    rw [hlen]
    exact (runsTo_dumpEnd h ht x).takes (exec_dump h ht x) rfl

end

/-! ### The transitions of the FSM (30_encoding.md R76) -/

namespace Sys2Proof.Machine

/-- The FSM states a step of `f` can lead to. -/
def successors : Fsm → List Fsm
  | .idle => [.idle, .initAm, .rdAddr, .scInit, .duInit]
  | .initAm => [.initDm]
  | .initDm => [.initCl]
  | .initCl => [.initCm]
  | .initCm => [.initRet]
  | .initRet => [.idle]
  | .rdAddr => [.rdWaitAs]
  | .rdWaitAs => [.rdCeOn]
  | .rdCeOn => [.rdWaitCo]
  | .rdWaitCo => [.rdOeOn]
  | .rdOeOn => [.rdWaitDv]
  | .rdWaitDv => [.rdSample]
  | .rdSample => [.rdWaitDh]
  | .rdWaitDh => [.rdOeOff]
  | .rdOeOff => [.rdCeOff]
  | .rdCeOff => [.rdWaitCd]
  | .rdWaitCd => [.rdRet]
  | .rdRet => [.idle, .scTest, .duStore]
  | .scInit => [.scCall]
  | .scCall => [.rdAddr, .scRet]
  | .scTest => [.scRet, .scCall]
  | .scRet => [.idle]
  | .duInit => [.duChunk]
  | .duChunk => [.duCall, .duEof]
  | .duCall => [.rdAddr, .duEmit]
  | .duStore => [.duCall]
  | .duEmit => [.duChunk, .duEmit]
  | .duEof => [.duRet, .duEof]
  | .duRet => [.idle]

theorem accept_st_mem_successors (o : Op) (x : Addr) (s : State) : (accept o x s).st ∈ successors .idle := by
  cases o <;> simp [accept, successors]

theorem idleStep_st_mem_successors {s : State} (hs : s.st = .idle) : (idleStep s).st ∈ successors .idle := by
  unfold idleStep
  split
  · simp [hs, successors]
  · exact accept_st_mem_successors ..

theorem rdRetStep_st_mem_successors (s : State) : (rdRetStep s).st ∈ successors .rdRet := by
  unfold rdRetStep
  cases s.op <;> simp [respond, successors]

theorem st_ite_mem {p : Prop} [Decidable p] {l : List Fsm} {t u : State} (ht : t.st ∈ l) (hu : u.st ∈ l) :
    (if p then t else u).st ∈ l := by
  split
  · exact ht
  · exact hu

theorem fsmStep_st_mem_successors (s : State) : (fsmStep s).st ∈ successors s.st := by
  unfold fsmStep
  cases hs : s.st
  case idle => exact idleStep_st_mem_successors hs
  case rdRet => exact rdRetStep_st_mem_successors s
  case scCall | scTest | duChunk | duCall => exact st_ite_mem (.head _) (.tail _ (.head _))
  case duEmit =>
    have hstay : s.st ∈ successors .duEmit := by simp [hs, successors]
    exact st_ite_mem (st_ite_mem (.head _) hstay) hstay
  case duEof =>
    have hstay : s.st ∈ successors .duEof := by simp [hs, successors]
    exact st_ite_mem (st_ite_mem (.head _) hstay) hstay
  all_goals exact .head _

/-- DU_CALL and DU_EMIT alone lead to DU_EMIT (R133, R135). -/
theorem duEmit_mem_successors {f : Fsm} (h : .duEmit ∈ successors f) : f = .duCall ∨ f = .duEmit := by
  cases f <;> simp [successors] at h ⊢

end Sys2Proof.Machine

/-! ### The accumulator law (41_dump_encoder.md R141) -/

namespace Sys2Proof.Machine

/-- The register `POS` stands in the record and `SUM` is what R141 says. -/
def AccumulatorOk (s : State) : Prop := s.pos.toNat < 43 + Config.eol.length ∧ SumOk s

/-- A data record begins with nothing summed (R133). -/
theorem accumulatorOk_of_start {s : State} (hsum : s.sum = 0) (hpos : s.pos = 0) : AccumulatorOk s := by
  refine ⟨?_, ?_⟩
  · rw [hpos]
    exact Nat.add_pos_left (by decide) _
  · rw [SumOk, hpos, hsum]
    rfl

/-- Under the law the next sum is the one of the next position. -/
theorem nextSum_of_sumOk {s : State} (hp : s.pos.toNat < 43 + Config.eol.length) (h : SumOk s) :
    nextSum s = sumBytes ((fieldBytes s.cur s.buf).take ((s.pos.toNat + 1) / 2)) := by
  have hsame : nextSum (emittingData s s.pos.toNat) = nextSum s := by
    rw [SumOk] at h
    simp [nextSum, emittingData, ← h]
  rw [← hsame, nextSum_emittingData hp]

/-- A character sent within the record keeps the law (R135). -/
theorem micro_duEmit_accumulatorOk {s : State} (hr : s.rst = false) (hs : s.st = .duEmit) (h : AccumulatorOk s)
    (hnext : (micro s).st = .duEmit) : AccumulatorOk (micro s) := by
  obtain ⟨hp, hsum⟩ := h
  cases ht : s.txReady with
  | false =>
    rw [micro_hold hr (.inl hs) ht]
    exact ⟨hp, hsum⟩
  | true =>
    by_cases hlast : s.pos.toNat = 42 + Config.eol.length
    · rw [micro_duEmit_last hr ht hs hlast] at hnext
      cases hnext
    · have hpos : (s.pos + 1).toNat = s.pos.toNat + 1 := by
        have h21 := eol_length_bounds.2
        rw [BitVec.toNat_add, Nat.mod_eq_of_lt (by simp; omega)]
        rfl
      rw [micro_duEmit_next hr ht hs hlast]
      refine ⟨?_, ?_⟩
      · show (s.pos + 1).toNat < _
        omega
      · show nextSum s = sumBytes ((fieldBytes s.cur s.buf).take ((s.pos + 1).toNat / 2))
        rw [hpos, nextSum_of_sumOk hp hsum]

/-- Every micro-step into DU_EMIT keeps or establishes the law. -/
theorem micro_accumulatorOk {s : State} (h : s.st = .duEmit → AccumulatorOk s) (hnext : (micro s).st = .duEmit) :
    AccumulatorOk (micro s) := by
  obtain ⟨-, hm⟩ | ⟨hr, hm⟩ := micro_cases s (c := Config.rrc)
  · rw [hm] at hnext
    cases hnext
  · have hmem := fsmStep_st_mem_successors s
    rw [← hm, hnext] at hmem
    obtain hs | hs := duEmit_mem_successors hmem
    · by_cases hidx : s.idx.toNat < 16
      · rw [micro_duCall hr hs hidx] at hnext
        cases hnext
      · rw [micro_duCall_end hr hs (Nat.not_lt.1 hidx)]
        exact accumulatorOk_of_start rfl rfl
    · exact micro_duEmit_accumulatorOk hr hs (h hs) hnext

theorem sum_eq_of_sumOk {s : State} (h : SumOk s) (hp : 40 ≤ s.pos.toNat) :
    s.sum = sumBytes (fieldBytes s.cur s.buf) := by
  rw [h, sumBytes_take_fieldBytes hp]

theorem txData_duEmit {s : State} (hs : s.st = .duEmit) :
    txData s = datarecChar s.cur s.buf s.sum s.pos.toNat := by
  simp [txData, hs]

end Sys2Proof.Machine

section
open Sys2Proof Sys2Proof.Machine

/-- Settles O49: DU_CALL enters DU_EMIT with nothing summed, DU_EMIT adds each field byte once, and from position 40
on all twenty are in. -/
theorem accumulatorLaw : Obligations.AccumulatorLaw := by
  refine ⟨fun s h hnext => micro_accumulatorOk h hnext, fun s hs h hp => ?_, fun s hs h hp => ?_⟩
  · have hsum : s.sum = sumBytes (fieldBytes s.cur s.buf) := sum_eq_of_sumOk h (by omega)
    rw [txData_duEmit hs, hp, hsum]
    exact ⟨rfl, rfl⟩
  · have hsum : s.sum = sumBytes (fieldBytes s.cur s.buf) := sum_eq_of_sumOk h (by omega)
    rw [txData_duEmit hs, hp, hsum]
    exact ⟨rfl, rfl⟩

end

/-! ### The micro-step of IDLE (42_dispatch_and_interfaces.md R160, R161) -/

namespace Sys2Proof.Machine

/-- With nothing offered IDLE stays (R160). -/
theorem micro_ready_nil {s : State} (h : Ready s) (ho : s.offer = []) : micro s = s := by
  obtain ⟨hr, hs⟩ := h
  rw [micro_eq_fsmStep hr]
  simp only [fsmStep, hs, idleStep, ho]

/-- With a command offered IDLE accepts it (R160). -/
theorem micro_ready_cons {s : State} {o : Op} {x : Addr} {rest : List CmdWord} (h : Ready s)
    (ho : s.offer = cmdWord o x :: rest) : micro s = accept o x { s with offer := rest } := by
  obtain ⟨hr, hs⟩ := h
  rw [micro_eq_fsmStep hr]
  simp only [fsmStep, hs, idleStep, ho, cmdOp_cmdWord, cmdAddr_cmdWord]

end Sys2Proof.Machine

section
open Sys2Proof Sys2Proof.Machine

/-- Settles O8: the word offered is the command's own, and what `accept` writes for each is what R161 lists. -/
theorem acceptanceDispatches : Obligations.AcceptanceDispatches := by
  refine fun s h => ⟨micro_ready_nil h, fun x rest => ⟨fun ho => ?_, fun ho => ?_, fun ho => ?_, fun ho => ?_⟩⟩ <;>
    rw [micro_ready_cons h ho] <;> rfl

end

/-! ### The transmit port (42_dispatch_and_interfaces.md R166) -/

namespace Sys2Proof.Machine

/-- Outside the wait states a clock cycle is a micro-step (R171). -/
theorem cycle_eq_micro {s : State} {c : Params} (h : waits s.st = false) : cycle s c = micro s c := by
  simp [cycle, h]

theorem microN_of_micro_eq {s : State} {c : Params} (h : micro s c = s) (n : Nat) : microN n s c = s := by
  induction n with
  | zero => rfl
  | succ n ih => rw [microN_succ, h, ih]

theorem cycleN_of_cycle_eq {s : State} {c : Params} (h : cycle s c = s) (n : Nat) : cycleN n s c = s := by
  induction n with
  | zero => rfl
  | succ n ih => rw [cycleN_succ, h, ih]

theorem txData_duEof {s : State} (hs : s.st = .duEof) : txData s = eofrecChar s.pos.toNat := if_pos hs

theorem ports_txData {s : State} {c : Params} (h : txValid s = true) : (ports s c).txData = some (txData s c) :=
  if_pos h

section
variable {s : State} (hr : s.rst = false) (hs : s.st = .duEmit ∨ s.st = .duEof)
include hr hs

/-- With the sink not ready a state that sends holds for any number of micro-steps and of clock cycles. -/
theorem hold_forever (ht : s.txReady = false) (n : Nat) : microN n s = s ∧ cycleN n s = s := by
  have hmicro : micro s = s := micro_hold hr hs ht
  have hwaits : waits s.st = false := by obtain hs | hs := hs <;> rw [hs] <;> rfl
  exact ⟨microN_of_micro_eq hmicro n, cycleN_of_cycle_eq ((cycle_eq_micro hwaits).trans hmicro) n⟩

/-- With the sink ready a state that sends hands over the byte on `tx_data`. -/
theorem micro_sends_txData (ht : s.txReady = true) : (micro s).trace = s.trace ++ [.tx (txData s)] := by
  obtain hs | hs := hs
  · rw [micro_duEmit hr ht hs, txData_duEmit hs]
    exact congrArg (· ++ _) (advanceData_trace s)
  · rw [micro_duEof hr ht hs, txData_duEof hs]
    exact congrArg (· ++ _) (advanceEof_trace s)

end

/-- `t`'s trace is `s`'s with events after it, none of which hands a byte to the sink. -/
def AppendsNoTx (s t : State) : Prop := ∃ es : List Event, t.trace = s.trace ++ es ∧ ∀ c : Byte, Event.tx c ∉ es

theorem AppendsNoTx.of_trace_eq {s t : State} (h : t.trace = s.trace) : AppendsNoTx s t := ⟨[], by simp [h], by simp⟩

theorem AppendsNoTx.ite {p : Prop} [Decidable p] {s t u : State} (ht : t.trace = s.trace) (hu : u.trace = s.trace) :
    AppendsNoTx s (if p then t else u) := by
  split
  · exact .of_trace_eq ht
  · exact .of_trace_eq hu

theorem idleStep_appendsNoTx (s : State) : AppendsNoTx s (idleStep s) := by
  unfold idleStep
  split
  next => exact .of_trace_eq rfl
  next w _ _ => exact ⟨[.cmd (cmdOp w) (cmdAddr w)], by cases cmdOp w <;> rfl, by simp⟩

theorem rdRetStep_appendsNoTx (s : State) : AppendsNoTx s (rdRetStep s) := by
  unfold rdRetStep
  cases s.op
  case read => exact ⟨[.rsp (.read s.data)], rfl, by simp⟩
  all_goals exact .of_trace_eq rfl

/-- The states that do not wait for the sink send it nothing: their events are those of the command port, the lines,
the waits and the response. -/
theorem fsmStep_appendsNoTx {s : State} {c : Params} (h : emits s.st = false) : AppendsNoTx s (fsmStep s c) := by
  unfold fsmStep
  cases hs : s.st
  case idle => exact idleStep_appendsNoTx s
  case initAm => exact ⟨modeAddrEvents .out c, rfl, by simp [modeAddrEvents]⟩
  case initDm => exact ⟨modeDataEvents .inp c, rfl, by simp [modeDataEvents]⟩
  case initCl => exact ⟨[.drive .ce true, .drive .oe true], List.append_assoc .., by simp⟩
  case rdAddr => exact ⟨driveAddrEvents (effectiveAddr s.addr c) c, rfl, by simp [driveAddrEvents]⟩
  case rdSample => exact ⟨sampleEvents (levels s c) c, rfl, by simp [sampleEvents]⟩
  case rdRet => exact rdRetStep_appendsNoTx s
  case scCall | scTest | duChunk | duCall => exact .ite rfl rfl
  case scInit | duInit | duStore => exact .of_trace_eq rfl
  case duEmit | duEof => simp [hs, emits] at h
  all_goals exact ⟨_, rfl, by simp⟩

end Sys2Proof.Machine

section
open Sys2Proof Sys2Proof.Machine

/-- Settles O19: a state that sends holds or hands over the byte on `tx_data`; no other state has a byte to send. -/
theorem sinkHandshake : Obligations.SinkHandshake := by
  refine fun s hr => ⟨fun hs => ?_, fun hEmit hEof => ?_⟩
  · have hvalid : txValid s = true := (txValid_iff hr).2 hs
    exact ⟨hvalid, ports_txData hvalid, txData_duEmit, txData_duEof, hold_forever hr hs, micro_sends_txData hr hs⟩
  · have hvalid : txValid s = false := Bool.eq_false_iff.2 fun hv => ((txValid_iff hr).1 hv).elim hEmit hEof
    have hsilent : emits s.st = false := by simpa [emits] using ⟨hEmit, hEof⟩
    rw [micro_eq_fsmStep hr]
    exact ⟨hvalid, fsmStep_appendsNoTx hsilent⟩

end

/-! ### Which steps write a latch (10_state.md R37) -/

namespace Sys2Proof.Machine

/-- The latches, each with whether it has been written. -/
def latches (s : State) : (AddrLines × Bool) × (Bool × Bool) × (Bool × Bool) :=
  ((s.latA, s.latAKnown), (s.latCe, s.latCeKnown), (s.latOe, s.latOeKnown))

/-- What the step of an FSM state writes to the latches: the rows of the table in R37 that name a `LAT`. -/
def writtenLatches (s : State) : (AddrLines × Bool) × (Bool × Bool) × (Bool × Bool) :=
  match s.st with
  | .rdAddr => ((effectiveAddr s.addr, true), (latches s).2)
  | .initCl => ((latches s).1, (true, true), (true, true))
  | .rdCeOn => ((latches s).1, (false, true), (latches s).2.2)
  | .rdCeOff => ((latches s).1, (true, true), (latches s).2.2)
  | .rdOeOn => ((latches s).1, (latches s).2.1, (false, true))
  | .rdOeOff => ((latches s).1, (latches s).2.1, (true, true))
  | _ => latches s

theorem latches_ite {p : Prop} [Decidable p] {s t u : State} (ht : latches t = latches s) (hu : latches u = latches s) :
    latches (if p then t else u) = latches s := by
  split
  · exact ht
  · exact hu

theorem accept_latches (o : Op) (x : Addr) (s : State) : latches (accept o x s) = latches s := by
  cases o <;> rfl

theorem idleStep_latches (s : State) : latches (idleStep s) = latches s := by
  unfold idleStep
  split
  · rfl
  · exact accept_latches ..

theorem rdRetStep_latches (s : State) : latches (rdRetStep s) = latches s := by
  unfold rdRetStep
  cases s.op <;> rfl

/-- The table of R37 for the latches. -/
theorem fsmStep_latches (s : State) : latches (fsmStep s) = writtenLatches s := by
  unfold fsmStep writtenLatches
  cases s.st
  case idle => exact idleStep_latches s
  case rdRet => exact rdRetStep_latches s
  case scCall | scTest | duChunk | duCall => exact latches_ite rfl rfl
  case duEmit | duEof => exact latches_ite (latches_ite rfl rfl) rfl
  all_goals rfl

theorem micro_latches {s : State} (hr : s.rst = false) : latches (micro s) = writtenLatches s := by
  rw [micro_eq_fsmStep hr, fsmStep_latches]

end Sys2Proof.Machine

section
open Sys2Proof Sys2Proof.Machine

/-- Settles O45: the table of R37 read row by row. -/
theorem latchesAreWrittenByTheirStates : Obligations.LatchesAreWrittenByTheirStates := by
  intro s hr
  have hA : (micro s).latA = (writtenLatches s).1.1 := congrArg (·.1.1) (micro_latches hr)
  have hCe : (micro s).latCe = (writtenLatches s).2.1.1 := congrArg (·.2.1.1) (micro_latches hr)
  have hOe : (micro s).latOe = (writtenLatches s).2.2.1 := congrArg (·.2.2.1) (micro_latches hr)
  rw [hA, hCe, hOe, writtenLatches]
  cases s.st <;> simp [latches]

end

/-! ### The invariant (40_device_interface.md R116; 41_dump_encoder.md R141, R148) -/

namespace Sys2Proof.Machine

/-! #### Directions -/

theorem directionsOk_of_dir_eq {s t : State} (h : dir t = dir s) (hs : DirectionsOk s) : DirectionsOk t := by
  have out_iff {b b' : Bool} (hb : (if b then Dir.out else Dir.inp) = if b' then .out else .inp) : b = b' := by
    cases b <;> cases b' <;> simp_all
  have hA : t.dirA = s.dirA := BitVec.eq_of_getLsbD_eq fun i hi => out_iff (congrFun h (.a ⟨i, hi⟩))
  have hD : t.dirD = s.dirD := BitVec.eq_of_getLsbD_eq fun i hi => out_iff (congrFun h (.d ⟨i, hi⟩))
  have hCe : t.dirCe = s.dirCe := congrFun h .ce
  have hOe : t.dirOe = s.dirOe := congrFun h .oe
  rwa [DirectionsOk, hA, hD, hCe, hOe]

/-- INIT makes the Address lines outputs before the Control lines, and nothing else makes a line an output. -/
theorem fsmStep_directionsOk {s : State} (hd : DirectionsOk s) (hp : PhaseOk s) : DirectionsOk (fsmStep s) := by
  cases hw : writesDir s.st
  · exact directionsOk_of_dir_eq (fsmStep_dir hw) hd
  · obtain ⟨hD, hA, hC, hCA⟩ := hd
    simp only [writesDir, Bool.or_eq_true, beq_iff_eq] at hw
    obtain (hs | hs) | hs := hw <;> simp only [fsmStep, hs]
    · have hout : addrMask = BitVec.allOnes 12 := addrMask_rrc
      exact ⟨hD, .inr hout, hC, fun _ => hout⟩
    · exact ⟨rfl, hA, hC, hCA⟩
    · rw [PhaseOk, hs] at hp
      obtain ⟨-, hout, -⟩ := hp
      exact ⟨hD, hA, rfl, fun _ => hout⟩

/-! #### Control lines -/

/-- What the invariant asks of one Control line: its latch is 0 where it is asserted, 1 where it is driven and not
asserted, and written where it is driven (R116). -/
def LineOk (asserted : Bool) (d : Dir) (lat : Bool × Bool) : Prop :=
  (asserted = true → lat.1 = false) ∧ (d = .out → asserted = false → lat.1 = true) ∧ (d = .out → lat.2 = true)

theorem controlOk_iff (s : State) :
    ControlOk s ↔ LineOk (chipEnabled s.st) s.dirCe (latches s).2.1 ∧
      LineOk (outputEnabled s.st) s.dirOe (latches s).2.2 := by
  simp only [ControlOk, LineOk, latches]
  tauto

theorem lineOk_asserted (d : Dir) : LineOk true d (false, true) := by simp [LineOk]

theorem lineOk_released (d : Dir) : LineOk false d (true, true) := by simp [LineOk]

/-- Chip-enable is asserted from RD_CE_ON to RD_CE_OFF. -/
theorem chipEnabled_of_mem_successors {f g : Fsm} (h : g ∈ successors f) :
    chipEnabled g = if f = .rdCeOn then true else if f = .rdCeOff then false else chipEnabled f := by
  revert g
  cases f <;> decide

/-- Output-enable is asserted from RD_OE_ON to RD_OE_OFF. -/
theorem outputEnabled_of_mem_successors {f g : Fsm} (h : g ∈ successors f) :
    outputEnabled g = if f = .rdOeOn then true else if f = .rdOeOff then false else outputEnabled f := by
  revert g
  cases f <;> decide

/-- The lines' directions after a step: INIT_CM alone changes those of the Control lines (R95). -/
theorem fsmStep_dirControl {s : State} (h : s.st ≠ .initCm) :
    (fsmStep s).dirCe = s.dirCe ∧ (fsmStep s).dirOe = s.dirOe := by
  cases hw : writesDir s.st
  · exact ⟨congrFun (fsmStep_dir hw) .ce, congrFun (fsmStep_dir hw) .oe⟩
  · simp only [writesDir, Bool.or_eq_true, beq_iff_eq, h, or_false] at hw
    obtain hs | hs := hw <;> simp only [fsmStep, hs] <;> exact ⟨rfl, rfl⟩

/-- The latches follow the FSM: what asserts or releases a line writes its latch, and INIT_CM drives released lines. -/
theorem fsmStep_controlOk {s : State} (hc : ControlOk s) (hp : PhaseOk s) : ControlOk (fsmStep s) := by
  have hnext := fsmStep_st_mem_successors s
  obtain ⟨hCe, hOe⟩ := (controlOk_iff s).1 hc
  rw [controlOk_iff, chipEnabled_of_mem_successors hnext, outputEnabled_of_mem_successors hnext, fsmStep_latches,
    writtenLatches]
  by_cases hCm : s.st = .initCm
  · rw [PhaseOk, hCm] at hp
    obtain ⟨-, -, hlatCe, hlatOe, hknownCe, hknownOe⟩ := hp
    simp only [hCm, latches, hlatCe, hlatOe, hknownCe, hknownOe]
    exact ⟨lineOk_released _, lineOk_released _⟩
  · obtain ⟨hdirCe, hdirOe⟩ := fsmStep_dirControl hCm
    rw [hdirCe, hdirOe]
    cases hs : s.st <;> rw [hs] at hCe hOe
    case rdCeOn => exact ⟨lineOk_asserted _, hOe⟩
    case rdCeOff => exact ⟨lineOk_released _, hOe⟩
    case rdOeOn => exact ⟨hCe, lineOk_asserted _⟩
    case rdOeOff => exact ⟨hCe, lineOk_released _⟩
    case initCl => exact ⟨lineOk_released _, lineOk_released _⟩
    all_goals exact ⟨hCe, hOe⟩

/-! #### Registers -/

theorem accept_phaseOk (o : Op) (x : Addr) (s : State) : PhaseOk (accept o x s) := by
  cases o
  case read => exact True.intro
  all_goals exact rfl

theorem idleStep_phaseOk {s : State} (hs : s.st = .idle) : PhaseOk (idleStep s) := by
  unfold idleStep
  split
  · rw [PhaseOk, hs]
    exact True.intro
  · exact accept_phaseOk ..

/-- The read sequence returns to the command that called it (40_device_interface.md R111). -/
theorem rdRetStep_phaseOk {s : State} (h : CallOk s) : PhaseOk (rdRetStep s) := by
  rw [CallOk] at h
  cases ho : s.op <;> rw [ho] at h
  case init => exact h.elim
  case read => rw [rdRetStep_of_read ho]; exact True.intro
  case scan => rw [rdRetStep_of_scan ho]; exact ⟨ho, h⟩
  case dump => rw [rdRetStep_of_dump ho]; exact ⟨ho, h⟩

section
variable {s : State} (hr : s.rst = false)
include hr

/-- The loop of SCAN keeps `CUR` at most 8192 and calls reads below it (41_dump_encoder.md R122). -/
theorem micro_scCall_phaseOk (hs : s.st = .scCall) (ho : s.op = .scan) : PhaseOk (micro s) := by
  by_cases hlt : s.cur.toNat < 8192
  · rw [micro_scCall hr hs hlt, ← scanAddr_eq_ofNat]
    simp only [PhaseOk, CallOk, ho]
    exact ⟨hlt, trivial⟩
  · rw [micro_scCall_end hr hs (Nat.not_lt.1 hlt)]
    exact ⟨ho, Nat.le_refl 8192⟩

/-- SC_TEST leaves the loop with `CUR` as the result, or moves it by one, to 8192 at most (R123). -/
theorem micro_scTest_phaseOk (hs : s.st = .scTest) (ho : s.op = .scan) (hcur : s.cur.toNat < 8192) :
    PhaseOk (micro s) := by
  by_cases hd : s.data = 0xFF
  · rw [micro_scTest_empty hr hs hd]
    refine ⟨ho, ?_⟩
    show (s.cur + 1).toNat ≤ 8192
    have hnext : (s.cur + 1).toNat = s.cur.toNat + 1 := BitVec.toNat_add_of_lt (by simp; omega)
    omega
  · rw [micro_scTest_hit hr hs hd]
    exact ⟨ho, hcur.le⟩

/-- DU_CHUNK starts a chunk below 8192 and the end record at 8192 (R132). -/
theorem micro_duChunk_phaseOk (hs : s.st = .duChunk) (ho : s.op = .dump) (hmod : s.cur.toNat % 16 = 0)
    (hcur : s.cur.toNat ≤ 8192) : PhaseOk (micro s) := by
  by_cases hlt : s.cur.toNat < 8192
  · rw [micro_duChunk hr hs hlt]
    exact ⟨ho, ⟨hmod, hlt⟩, Nat.zero_le 16⟩
  · rw [micro_duChunk_end hr hs (Nat.not_lt.1 hlt)]
    exact ⟨ho, Nat.le_antisymm hcur (Nat.not_lt.1 hlt), Nat.add_pos_left (by decide) _⟩

/-- DU_CALL calls the read at `CUR + IDX`, or starts a record with nothing summed (R133). -/
theorem micro_duCall_phaseOk (hs : s.st = .duCall) (ho : s.op = .dump) (hchunk : AtChunk s) : PhaseOk (micro s) := by
  by_cases hlt : s.idx.toNat < 16
  · rw [micro_duCall hr hs hlt, ← dumpAddr_eq_ofNat]
    simp only [PhaseOk, CallOk, ho]
    exact ⟨hchunk, hlt, trivial⟩
  · rw [micro_duCall_end hr hs (Nat.not_lt.1 hlt)]
    exact ⟨ho, hchunk, accumulatorOk_of_start rfl rfl⟩

/-- DU_STORE moves `IDX` by one, to 16 at most (R134). -/
theorem micro_duStore_phaseOk (hs : s.st = .duStore) (ho : s.op = .dump) (hchunk : AtChunk s)
    (hidx : s.idx.toNat < 16) : PhaseOk (micro s) := by
  rw [micro_duStore hr hs hidx]
  refine ⟨ho, hchunk, ?_⟩
  show (s.idx + 1).toNat ≤ 16
  have hnext : (s.idx + 1).toNat = s.idx.toNat + 1 := BitVec.toNat_add_of_lt (by simp; omega)
  omega

/-- R135: within the record the accumulator law is kept; its end moves `CUR` to the next chunk. -/
theorem micro_duEmit_phaseOk (hs : s.st = .duEmit) (ho : s.op = .dump) (hchunk : AtChunk s) (h : AccumulatorOk s) :
    PhaseOk (micro s) := by
  obtain ⟨hmod, hlt⟩ := id hchunk
  by_cases hend : s.txReady = true ∧ s.pos.toNat = 42 + Config.eol.length
  · rw [micro_duEmit_last hr hend.1 hs hend.2]
    have hnext : (s.cur + 16).toNat = s.cur.toNat + 16 := BitVec.toNat_add_of_lt (by simp; omega)
    refine ⟨ho, ?_⟩
    show (s.cur + 16).toNat % 16 = 0 ∧ (s.cur + 16).toNat ≤ 8192
    omega
  · have hstay : (micro s).st = .duEmit ∧ (micro s).op = .dump ∧ AtChunk (micro s) := by
      cases ht : s.txReady
      · rw [micro_hold hr (.inl hs) ht]
        exact ⟨hs, ho, hchunk⟩
      · rw [micro_duEmit_next hr ht hs fun hp => hend ⟨ht, hp⟩]
        exact ⟨hs, ho, hchunk⟩
    obtain ⟨hst, hop, hat⟩ := hstay
    rw [PhaseOk, hst]
    exact ⟨hop, hat, micro_duEmit_accumulatorOk hr hs h hst⟩

/-- DU_EOF holds, moves `POS` within the end record, or ends it (R136). -/
theorem micro_duEof_phaseOk (hs : s.st = .duEof) (ho : s.op = .dump) (hcur : s.cur.toNat = 8192)
    (hpos : s.pos.toNat < eofLength) : PhaseOk (micro s) := by
  rw [eofLength_rrc] at hpos
  cases ht : s.txReady
  · rw [micro_hold hr (.inr hs) ht, PhaseOk, hs]
    exact ⟨ho, hcur, hpos⟩
  · by_cases hend : s.pos.toNat = 10 + Config.eol.length
    · rw [micro_duEof_last hr ht hs hend]
      exact ho
    · have h21 := eol_length_bounds.2
      have hnext : (s.pos + 1).toNat = s.pos.toNat + 1 := BitVec.toNat_add_of_lt (by simp; omega)
      rw [micro_duEof_next hr ht hs hend, PhaseOk]
      simp only [hs]
      exact ⟨ho, hcur, by rw [hnext, eofLength_rrc]; omega⟩

/-- Each state leaves the registers as the next one needs them. -/
theorem micro_phaseOk (hp : PhaseOk s) : PhaseOk (micro s) := by
  rw [PhaseOk] at hp
  cases hs : s.st <;> rw [hs] at hp
  case idle => rw [micro_eq_fsmStep hr]; simp only [fsmStep, hs]; exact idleStep_phaseOk hs
  case scCall => exact micro_scCall_phaseOk hr hs hp.1
  case scTest => obtain ⟨ho, hcur, -⟩ := hp; exact micro_scTest_phaseOk hr hs ho hcur
  case duChunk => obtain ⟨ho, hmod, hcur⟩ := hp; exact micro_duChunk_phaseOk hr hs ho hmod hcur
  case duCall => obtain ⟨ho, hchunk, -⟩ := hp; exact micro_duCall_phaseOk hr hs ho hchunk
  case duStore => obtain ⟨ho, hchunk, hidx, -⟩ := hp; exact micro_duStore_phaseOk hr hs ho hchunk hidx
  case duEmit => obtain ⟨ho, hchunk, hacc⟩ := hp; exact micro_duEmit_phaseOk hr hs ho hchunk hacc
  case duEof => obtain ⟨ho, hcur, hpos⟩ := hp; exact micro_duEof_phaseOk hr hs ho hcur hpos
  case rdRet => rw [micro_eq_fsmStep hr]; simp only [fsmStep, hs]; exact rdRetStep_phaseOk hp.1
  all_goals rw [micro_at hr hs]
  case initAm => exact ⟨hp, addrMask_rrc⟩
  case initDm => exact hp
  case initCl => exact ⟨hp.1, hp.2, rfl, rfl, rfl, rfl⟩
  case initCm => exact hp.1
  case rdAddr => exact ⟨hp, rfl, rfl⟩
  case rdOeOff => exact ⟨hp.1, hp.2, rfl⟩
  case rdCeOff => obtain ⟨hcall, hheld, -⟩ := hp; exact ⟨hcall, hheld⟩
  case scInit => exact ⟨hp, Nat.zero_le 8192⟩
  case duInit => exact ⟨hp, rfl, Nat.zero_le 8192⟩
  case initRet | scRet | duRet => exact True.intro
  all_goals exact hp

end

/-! #### Every step -/

theorem takeReset_machineInv {s : State} (h : s.rom.wf = true) : MachineInv (takeReset s) := by
  refine ⟨takeReset_rom_wf h, ⟨rfl, .inl rfl, rfl, fun hc => ?_⟩, ?_, True.intro⟩
  · cases hc
  · simp [ControlOk, chipEnabled, outputEnabled]

theorem micro_machineInv {s : State} (h : MachineInv s) : MachineInv (micro s) := by
  obtain ⟨hrom, hdir, hctl, hphase⟩ := h
  obtain ⟨-, e⟩ | ⟨hr, e⟩ := micro_cases s (c := Config.rrc)
  · rw [e]
    exact takeReset_machineInv hrom
  · refine ⟨micro_rom.symm ▸ hrom, ?_, ?_, micro_phaseOk hr hphase⟩ <;> rw [e]
    · exact fsmStep_directionsOk hdir hphase
    · exact fsmStep_controlOk hctl hphase

theorem accept_machineInv {s : State} (hs : s.st = .idle) (h : MachineInv s) (o : Op) (x : Addr) :
    MachineInv (accept o x s) := by
  obtain ⟨hrom, hdir, hctl, -⟩ := h
  refine ⟨(accept_rom o x s).symm ▸ hrom, directionsOk_of_dir_eq (accept_dir o x s) hdir, ?_, accept_phaseOk o x s⟩
  rw [ControlOk, hs] at hctl
  cases o <;> exact hctl

theorem step_machineInv {s t : State} (h : MachineInv s) (he : step s = .next t) : MachineInv t :=
  step_keeps (fun _ => micro_machineInv) (fun o x _ hready hu => accept_machineInv hready.2 hu o x)
    (fun _ hu => hu) h he

theorem runInputs_machineInv (inps : List Inputs) {s : State} (h : MachineInv s) : MachineInv (runInputs inps s) := by
  induction inps generalizing s with
  | nil => exact h
  | cons inp rest ih =>
    have hpresent : MachineInv (present inp s) := h
    exact ih (micro_machineInv hpresent)

end Sys2Proof.Machine

section
open Sys2Proof Sys2Proof.Machine

/-- Settles O50: directions, Control lines and registers each follow the FSM, given what holds in the state before. -/
theorem microStepKeepsTheInvariant : Obligations.MicroStepKeepsTheInvariant := fun _ h => micro_machineInv h

/-- Settles O51: a step is made of micro-steps, an acceptance in IDLE and taking a word off the port. -/
theorem stepKeepsTheInvariant : Obligations.StepKeepsTheInvariant := fun _ _ h he => step_machineInv h he

/-- Settles O52, by induction on the inputs: what is presented touches nothing the invariant reads. -/
theorem inputsCannotBreakTheInvariant : Obligations.InputsCannotBreakTheInvariant := fun inps _ h =>
  runInputs_machineInv inps h

/-- Settles O53: the reset values evaluated; the invariant is the one a reset establishes. -/
theorem resetState : Obligations.ResetState := by
  refine ⟨rfl, fun l => ?_, rfl, rfl, rfl, takeReset_machineInv (s := State.reset) reset_rom_wf⟩
  cases l <;> simp [dir, pin, pinOf, State.reset]

end

/-! ### The decoder and the encoder (30_encoding.md R60 to R66) -/

namespace Sys2Proof.Machine

/-! #### Command words -/

theorem opCode_opOfCode (c : BitVec 2) : opCode (opOfCode c) = c := by
  revert c
  decide

/-- A word is put together from its two fields. -/
theorem cmdWord_fields (w : CmdWord) : cmdWord (cmdOp w) (cmdAddr w) = w := by
  apply BitVec.eq_of_toNat_eq
  have hw := w.isLt
  rw [cmdWord_toNat, cmdOp, opCode_opOfCode, cmdAddr, BitVec.extractLsb'_toNat, BitVec.extractLsb'_toNat,
    Nat.shiftRight_eq_div_pow]
  omega

/-- A word decodes to the command of its fields. -/
theorem decodeWord_eq_command (w : CmdWord) : decodeWord w = command (cmdOp w) (cmdAddr w) := by
  rw [← decodeWord_cmdWord, cmdWord_fields]

theorem encode_command (o : Op) (x : Addr) : encode (command o x) = .word (cmdWord o x) := by
  cases o <;> rfl

theorem cmdOp_eq_opOfCode (w : CmdWord) : cmdOp w = opOfCode (BitVec.ofNat 2 (w.toNat / 8192)) := by
  have hfield : w.extractLsb' 13 2 = BitVec.ofNat 2 (w.toNat / 8192) := by
    apply BitVec.eq_of_toNat_eq
    rw [BitVec.extractLsb'_toNat, Nat.shiftRight_eq_div_pow, BitVec.toNat_ofNat]
  rw [cmdOp, hfield]

theorem cmdAddr_eq_ofNat (w : CmdWord) : cmdAddr w = BitVec.ofNat 13 w.toNat := rfl

theorem decodeWord_eq_ofNat (w : CmdWord) {k : Nat} (h : w.toNat / 8192 = k) :
    decodeWord w = command (opOfCode (BitVec.ofNat 2 k)) (BitVec.ofNat 13 w.toNat) := by
  rw [decodeWord_eq_command, cmdOp_eq_opOfCode, cmdAddr_eq_ofNat, h]

/-! #### Hex digits -/

/-- A reader takes a written digit for its value (R66). -/
theorem digitValue_digit (n : BitVec 4) : digitValue (digit n) = some n := by
  revert n
  decide

theorem highDigit_append_lowDigit (b : Byte) : highDigit b ++ lowDigit b = b := by
  have hjoin : b.extractLsb' 4 4 ++ b.extractLsb' 0 4 = b.extractLsb' 0 8 :=
    BitVec.extractLsb'_append_extractLsb'_eq_extractLsb' rfl
  exact hjoin.trans BitVec.extractLsb'_eq_self

/-- Reading hex digits gives back the bytes written. -/
theorem hexPairs_hexAll (l : List Byte) : hexPairs (hexAll l) = some l := by
  induction l with
  | nil => rfl
  | cons x xs ih =>
    have hcons : hexAll (x :: xs) = digit (highDigit x) :: digit (lowDigit x) :: hexAll xs := rfl
    rw [hcons, hexPairs]
    simp only [digitValue_digit, ih, highDigit_append_lowDigit]

/-! #### Records -/

theorem hexAll_append (l m : List Byte) : hexAll (l ++ m) = hexAll l ++ hexAll m := by
  induction l with
  | nil => rfl
  | cons x xs ih => simp [hexAll, ih]

theorem dataBody_eq_hexAll (a : Count) (b : Chunk) :
    dataBody a b = startMark :: hexAll (fieldBytes a b ++ [checksum a b]) := by
  simp [dataBody, hexAll_append, hexAll]

/-- The bytes of a data record with its checksum as the reader takes them apart (R63). -/
theorem fieldBytes_append (a : Count) (b : Chunk) (c : Byte) :
    fieldBytes a b ++ [c] = 0x10 :: hi8 a :: lo8 a :: 0x00 :: (b.toList ++ [c]) := by
  simp [fieldBytes_rrc]

theorem startAddressOk_iff (a : Count) : startAddressOk a = true ↔ a.toNat % 16 = 0 ∧ a.toNat < 8192 := by
  rw [startAddressOk, Bool.and_eq_true, beq_iff_eq, decide_eq_true_iff]
  rfl

theorem toNat_append_byte (h l : Byte) : (h ++ l).toNat = h.toNat * 256 + l.toNat := by
  rw [BitVec.toNat_append, ← Nat.shiftLeft_add_eq_or_of_lt l.isLt, Nat.shiftLeft_eq]

/-- The two address bytes of a record spell its start address. -/
theorem hi8_append_lo8 (a : Count) : hi8 a ++ lo8 a = a.setWidth 16 := by
  have ha := a.isLt
  apply BitVec.eq_of_toNat_eq
  rw [toNat_append_byte, hi8_toNat, lo8_toNat, BitVec.toNat_setWidth]
  omega

/-- Two address bytes below 8192 are those of the start address read from them. -/
theorem hi8_lo8_of_append {h l : Byte} (hlt : (h ++ l).toNat < 8192) :
    hi8 ((h ++ l).setWidth 14) = h ∧ lo8 ((h ++ l).setWidth 14) = l := by
  have hl := l.isLt
  rw [toNat_append_byte] at hlt
  constructor <;> apply BitVec.eq_of_toNat_eq
  · rw [hi8_toNat, BitVec.toNat_setWidth, toNat_append_byte]
    omega
  · rw [lo8_toNat, BitVec.toNat_setWidth, toNat_append_byte]
    omega

/-- Bytes sum to 0 exactly where the last one is the two's complement of the sum of the others (R140). -/
theorem sumBytes_append_singleton_eq_zero (l : List Byte) (c : Byte) :
    sumBytes (l ++ [c]) = 0 ↔ c = twosComplement (sumBytes l) := by
  have hsingle : sumBytes [c] = c := BitVec.add_zero c
  rw [sumBytes_append, hsingle, ← add_twosComplement (sumBytes l)]
  exact BitVec.add_right_inj _

/-- The reader takes a record's field bytes and checksum for the record. -/
theorem decodeFields_fieldBytes {a : Count} {b : Chunk} (ha : startAddressOk a = true) :
    decodeFields (fieldBytes a b ++ [checksum a b]) = .ok (.data a b) := by
  have hsum : sumBytes (fieldBytes a b ++ [checksum a b]) = 0 := (sumBytes_append_singleton_eq_zero _ _).2 rfl
  have hlen : (b.toList ++ [checksum a b]).length = 17 := by simp
  obtain ⟨hmod, hlt⟩ := (startAddressOk_iff a).1 ha
  rw [fieldBytes_append] at hsum ⊢
  rw [decodeFields, if_pos ⟨rfl, rfl⟩, dif_pos hlen, if_neg (not_not_intro hsum)]
  have haddr : (hi8 a ++ lo8 a).toNat = a.toNat := by
    rw [hi8_append_lo8, BitVec.toNat_setWidth]
    omega
  have hback : (hi8 a ++ lo8 a).setWidth 14 = a := by
    apply BitVec.eq_of_toNat_eq
    rw [BitVec.toNat_setWidth, haddr]
    omega
  have hchunk : (b.toList ++ [checksum a b]).take 16 = b.toList := List.take_left' b.length_toList
  simp only [haddr, hback, hchunk]
  exact if_pos ⟨hmod, hlt⟩

/-- Twenty-one bytes that sum to 0 are the fields and the checksum of the record read from them. -/
theorem eq_fieldBytes_of_sum {hi lo : Byte} {rest : List Byte} {b : Chunk} (hlen : rest.length = 17)
    (hsum : sumBytes (0x10 :: hi :: lo :: 0x00 :: rest) = 0) (hlt : (hi ++ lo).toNat < 8192)
    (hb : b.toList = rest.take 16) :
    0x10 :: hi :: lo :: 0x00 :: rest =
      fieldBytes ((hi ++ lo).setWidth 14) b ++ [checksum ((hi ++ lo).setWidth 14) b] := by
  obtain ⟨c, hc⟩ : ∃ c, rest.drop 16 = [c] := List.length_eq_one_iff.1 (by rw [List.length_drop, hlen])
  have hrest : rest = b.toList ++ [c] := by rw [hb, ← hc, List.take_append_drop]
  obtain ⟨hhi, hlo⟩ := hi8_lo8_of_append hlt
  have hfields : 0x10 :: hi :: lo :: 0x00 :: rest = fieldBytes ((hi ++ lo).setWidth 14) b ++ [c] := by
    rw [fieldBytes_append, hhi, hlo, hrest]
  rw [hfields] at hsum ⊢
  rw [(sumBytes_append_singleton_eq_zero _ c).1 hsum]
  rfl

/-- What the reader takes for a data record is the record's field bytes and checksum. -/
theorem fieldBytes_of_decodeFields {fs : List Byte} {a : Count} {b : Chunk}
    (h : decodeFields fs = .ok (.data a b)) :
    startAddressOk a = true ∧ fs = fieldBytes a b ++ [checksum a b] := by
  unfold decodeFields at h
  split at h
  next n hi lo ty rest =>
    split at h
    next hkind =>
      split at h
      next hlen =>
        split at h
        next => cases h
        next hsum =>
          simp only at h
          split at h
          next haddr =>
            obtain ⟨rfl, rfl⟩ := hkind
            obtain ⟨hmod, hlt⟩ : (hi ++ lo).toNat % 16 = 0 ∧ (hi ++ lo).toNat < 8192 := haddr
            cases h
            refine ⟨(startAddressOk_iff _).2 ?_, eq_fieldBytes_of_sum hlen (not_not.1 hsum) hlt rfl⟩
            have hstart : ((hi ++ lo).setWidth 14).toNat = (hi ++ lo).toNat := by
              rw [BitVec.toNat_setWidth]
              omega
            rw [hstart]
            exact ⟨hmod, hlt⟩
          next => cases h
      next => cases h
    next =>
      split at h
      next => split at h <;> cases h
      next => cases h
  next => cases h

/-- A line is its start mark and the hex digits of fields that the reader takes. -/
theorem decodeLine_eq_ok_iff {cs : List Byte} {i : Instr} :
    decodeLine cs = .ok i ↔ ∃ rest fs, cs = startMark :: rest ∧ hexPairs rest = some fs ∧ decodeFields fs = .ok i := by
  unfold decodeLine
  constructor
  · intro h
    split at h
    next => cases h
    next c rest =>
      split at h
      next hc =>
        split at h
        next fs hfs => exact ⟨rest, fs, by rw [hc], hfs, h⟩
        next => cases h
      next => cases h
  · rintro ⟨rest, fs, rfl, hfs, h⟩
    simp only [hfs, if_true, h]

/-- A text whose line the reader takes, with the terminator after it. -/
theorem decode_text_append_eol (body : List Byte) : decode (.text (body ++ Config.eol)) = decodeLine body := by
  have hlen : (body ++ Config.eol).length - Config.eol.length = body.length := by simp
  rw [decode, hlen, List.drop_left, List.take_left, if_pos rfl]

theorem decode_dataText {a : Count} {b : Chunk} (ha : startAddressOk a = true) :
    decode (.text (dataText a b)) = .ok (.data a b) := by
  rw [dataText_rrc, decode_text_append_eol, dataBody_eq_hexAll, decodeLine_eq_ok_iff]
  exact ⟨_, _, rfl, hexPairs_hexAll _, decodeFields_fieldBytes ha⟩

theorem decode_eofText : decode (.text eofText) = .ok .eof := by
  rw [eofText_rrc, decode_text_append_eol, decodeLine_eq_ok_iff]
  exact ⟨_, [0x00, 0x00, 0x00, 0x01, 0xFF], rfl, hexPairs_hexAll [0x00, 0x00, 0x00, 0x01, 0xFF], rfl⟩

theorem decode_encode_command (o : Op) (x : Addr) : decode (encode (command o x)) = .ok (command o x) := by
  rw [encode_command]
  exact congrArg Except.ok (decodeWord_cmdWord o x)

end Sys2Proof.Machine

section
open Sys2Proof Sys2Proof.Machine

/-- Settles O1: a command's word keeps both fields; a record's digits spell its fields and the checksum that makes
them sum to 0. -/
theorem decodeInvertsEncode : Obligations.DecodeInvertsEncode := by
  intro i hi
  cases i with
  | init x => exact decode_encode_command .init x
  | read a => exact decode_encode_command .read a
  | scan x => exact decode_encode_command .scan x
  | dump x => exact decode_encode_command .dump x
  | data a b => exact decode_dataText hi
  | eof => exact decode_eofText

/-- Settles O2: a word is put together from the two fields it decodes to. -/
theorem everyWordIsACommand : Obligations.EveryWordIsACommand := by
  refine fun w => ⟨?_, decodeWord_eq_ofNat w, decodeWord_eq_ofNat w, decodeWord_eq_ofNat w, decodeWord_eq_ofNat w⟩
  rw [decodeWord_eq_command, encode_command, cmdWord_fields]

/-- Settles O3: each vector is the word of its command. -/
theorem vectorWordsDecode : Obligations.VectorWordsDecode :=
  ⟨decode_encode_command .init 0, decode_encode_command .read 0, decode_encode_command .read 0x1005,
    decode_encode_command .read 8191, decode_encode_command .scan 0, decode_encode_command .dump 0,
    decode_encode_command .dump 0x1FFF⟩

/-- Settles O4: the reader takes 21 bytes that sum to 0, so the last one is the checksum. -/
theorem acceptedDataLineCarriesItsChecksum : Obligations.AcceptedDataLineCarriesItsChecksum := by
  intro cs a b h
  obtain ⟨rest, fs, hcs, hfs, hfields⟩ := decodeLine_eq_ok_iff.1 h
  obtain ⟨ha, rfl⟩ := fieldBytes_of_decodeFields hfields
  exact ⟨ha, rest, hcs, hfs⟩

/-- Settles O6: the formatter's character by position, the sum complete throughout. -/
theorem dataCharactersSpellTheRecord : Obligations.DataCharactersSpellTheRecord := fun _ _ _ hp =>
  dataText_getElem? hp fun _ => rfl

end

/-! ### Offers, resets and instructions out of place (42_dispatch_and_interfaces.md R162; 60_exceptions.md R185) -/

namespace Sys2Proof.Machine

/-- The state with other words on the command port. -/
def withOffer (ws : List CmdWord) (s : State) : State := { s with offer := ws }

theorem ite_withOffer {ws : List CmdWord} {p : Prop} [Decidable p] {t t' u u' : State} (ht : t' = withOffer ws t)
    (hu : u' = withOffer ws u) : (if p then t' else u') = withOffer ws (if p then t else u) := by
  rw [ht, hu, apply_ite (withOffer ws)]

theorem rdRetStep_withOffer (ws : List CmdWord) (s : State) :
    rdRetStep (withOffer ws s) = withOffer ws (rdRetStep s) := by
  have hop : (withOffer ws s).op = s.op := rfl
  rw [rdRetStep, rdRetStep, hop]
  cases s.op <;> rfl

theorem advanceData_withOffer (ws : List CmdWord) (s : State) :
    advanceData (withOffer ws s) = withOffer ws (advanceData s) := ite_withOffer rfl rfl

theorem advanceEof_withOffer (ws : List CmdWord) (s : State) :
    advanceEof (withOffer ws s) = withOffer ws (advanceEof s) := ite_withOffer rfl rfl

theorem duEmitStep_withOffer (ws : List CmdWord) (s : State) :
    duEmitStep (withOffer ws s) = withOffer ws (duEmitStep s) :=
  ite_withOffer (congrArg (transmit _) (advanceData_withOffer ws s)) rfl

theorem duEofStep_withOffer (ws : List CmdWord) (s : State) :
    duEofStep (withOffer ws s) = withOffer ws (duEofStep s) :=
  ite_withOffer (congrArg (transmit _) (advanceEof_withOffer ws s)) rfl

/-- IDLE alone reads or writes the command port. -/
theorem fsmStep_withOffer (ws : List CmdWord) {s : State} (hs : s.st ≠ .idle) :
    fsmStep (withOffer ws s) = withOffer ws (fsmStep s) := by
  have hst : (withOffer ws s).st = s.st := rfl
  rw [fsmStep, fsmStep, hst]
  cases h : s.st
  case idle => exact absurd h hs
  case rdRet => exact rdRetStep_withOffer ws s
  case scCall | scTest | duChunk | duCall => exact ite_withOffer rfl rfl
  case duEmit => exact duEmitStep_withOffer ws s
  case duEof => exact duEofStep_withOffer ws s
  all_goals rfl

theorem micro_withOffer (ws : List CmdWord) {s : State} (hs : s.st ≠ .idle) :
    micro (withOffer ws s) = withOffer ws (micro s) :=
  ite_withOffer rfl (fsmStep_withOffer ws hs)

/-- While busy, the words on the port stay (R162). -/
theorem micro_offer {s : State} (hs : s.st ≠ .idle) : (micro s).offer = s.offer := by
  have hsame : micro s = withOffer s.offer (micro s) := micro_withOffer s.offer hs
  exact (congrArg State.offer hsame).trans rfl

theorem microN_withOffer (ws : List CmdWord) {s : State} {n : Nat} (h : ∀ m, m < n → (microN m s).st ≠ .idle) :
    microN n (withOffer ws s) = withOffer ws (microN n s) := by
  induction n generalizing s with
  | zero => rfl
  | succ n ih =>
    have hs : s.st ≠ .idle := h 0 (Nat.succ_pos n)
    rw [microN_succ, micro_withOffer ws hs, ih fun m hm => h (m + 1) (Nat.succ_lt_succ hm)]
    rfl

theorem microN_rst (n : Nat) (s : State) : (microN n s).rst = s.rst := by
  induction n generalizing s with
  | zero => rfl
  | succ n ih => rw [microN_succ, ih, (micro_environment s).2.2.1]

/-- While a reset is held the machine stands at no instruction. -/
theorem step_of_rst {s : State} (hr : s.rst = true) : step s = .next (micro s) := by
  have hnone : current s = none := if_pos hr
  rw [step, hnone]

/-- Taking a reset leaves all 22 lines inputs and undriven (70_reset_and_hazards.md R200, R201). -/
theorem takeReset_undriven (s : State) (l : Line) : dir (takeReset s) l = .inp ∧ pin (takeReset s) l = .z := by
  cases l <;> simp [dir, pin, pinOf]

theorem cycle_of_rst {s : State} (hr : s.rst = true) : cycle s = micro s := by
  simp [cycle, hr]

/-! #### Instructions out of place -/

/-- A command is a run after its acceptance, of a length of its own. -/
theorem exec_command (o : Op) (x : Addr) : ∃ n, ∀ s, exec (command o x) s = .next (runCommand o x n s) := by
  cases o <;> exact ⟨_, fun _ => rfl⟩

theorem runCommand_busy {s : State} (hr : s.rst = false) (hs : s.st ≠ .idle) (o : Op) (x : Addr) (n : Nat) :
    runCommand o x n s = s := by
  simp [runCommand, hr, hs]

theorem runRecord_elsewhere {b : Bool} {s : State} (hr : s.rst = false) (hb : ¬b = true) (f : Fsm) (n : Nat) :
    runRecord b f n s = s := by
  simp [runRecord, hr, hb]

theorem atDataStart_iff (a : Count) (b : Chunk) (s : State) :
    atDataStart a b s = true ↔ s.st = .duEmit ∧ s.pos = 0 ∧ s.sum = 0 ∧ s.cur = a ∧ s.buf = b := by
  simp only [atDataStart, Bool.and_eq_true, beq_iff_eq, and_assoc]

theorem atEofStart_iff (s : State) : atEofStart s = true ↔ s.st = .duEof ∧ s.pos = 0 := by
  simp only [atEofStart, Bool.and_eq_true, beq_iff_eq]

theorem exec_of_rst (i : Instr) {s : State} (hr : s.rst = true) : exec i s = .next (micro s) := by
  rw [micro_eq_takeReset hr]
  cases i <;> exact congrArg Host.Outcome.next (if_pos hr)

end Sys2Proof.Machine

section
open Sys2Proof Sys2Proof.Machine

/-- Settles O9: a reset is taken before anything else is looked at, and IDLE alone takes a word off the port. -/
theorem resetWinsOverEverything : Obligations.ResetWinsOverEverything := by
  refine fun s => ⟨fun hr => ?_, micro_eq_fsmStep, fun _ => micro_offer, fun o x rest hr hs ho hidle => ?_⟩
  · refine ⟨step_of_rst hr, cycle_of_rst hr, ?_⟩
    rw [micro_eq_takeReset hr]
    exact ⟨rfl, takeReset_undriven s, rfl, rfl, by simp [ports, hr], by simp [ports, txValid, hr]⟩
  · have hready : Ready (micro s) := ⟨(micro_environment s).2.2.1.trans hr, hidle⟩
    exact micro_ready_cons hready ((micro_offer hs).trans ho)

/-- Settles O10: a busy machine's micro-step goes through with any words on the port, up to the first IDLE. -/
theorem busyAcceptsNothing : Obligations.BusyAcceptsNothing := by
  refine fun s ws hs => ⟨?_, micro_withOffer ws hs, fun o x n hr hbusy hidle hws => ?_⟩
  · exact Bool.eq_false_iff.2 fun h => hs ((cmdReady_iff s).1 h)
  · have hready : Ready (withOffer ws (microN n s)) := ⟨(microN_rst n s).trans hr, hidle⟩
    have hwait : microN n { s with offer := ws } = withOffer ws (microN n s) := microN_withOffer ws hbusy
    rw [microN_add n 1, hwait]
    exact micro_ready_cons hready hws

/-- Settles O11: each meaning tests where the machine stands before it does anything. -/
theorem instructionOutOfPlaceHasNoEffect : Obligations.InstructionOutOfPlaceHasNoEffect := by
  refine ⟨fun s w hr hs => ?_, fun s a b hr h => ?_, fun s hr h => ?_, fun s i hr => exec_of_rst i hr⟩
  · obtain ⟨n, hn⟩ := exec_command (cmdOp w) (cmdAddr w)
    rw [decodeWord_eq_command, hn, runCommand_busy hr hs]
  · have hnot : ¬atDataStart a b s = true := by rw [atDataStart_iff]; tauto
    exact congrArg Host.Outcome.next (runRecord_elsewhere hr hnot _ _)
  · have hnot : ¬atEofStart s = true := by rw [atEofStart_iff]; tauto
    exact congrArg Host.Outcome.next (runRecord_elsewhere hr hnot _ _)

end

/-! ### What a step runs (entry 7) -/

namespace Sys2Proof.Machine

theorem current_of_ready {s : State} (h : Ready s) : current s = s.offer.head?.map decodeWord := by
  simp [current, h.1, h.2]

section
variable {s : State} (hr : s.rst = false) (hs : s.st ≠ .idle)
include hr hs

/-- A busy machine stands at the data record it is about to emit, else at the end record, else at nothing. -/
theorem current_of_busy :
    current s = if atDataStart s.cur s.buf s then some (.data s.cur s.buf)
      else if atEofStart s then some .eof else none := by
  simp [current, hr, hs]

theorem step_of_atDataStart (h : s.st = .duEmit ∧ s.pos = 0 ∧ s.sum = 0) :
    step s = exec (.data s.cur s.buf) s := by
  have hat : atDataStart s.cur s.buf s = true := (atDataStart_iff ..).2 ⟨h.1, h.2.1, h.2.2, rfl, rfl⟩
  have hcur : current s = some (.data s.cur s.buf) := (current_of_busy hr hs).trans (if_pos hat)
  have hfetch : fetched s = s := if_neg hs
  simp only [step, hcur, hfetch]

theorem step_of_atEofStart (h : s.st = .duEof ∧ s.pos = 0) : step s = exec .eof s := by
  have hnot : ¬atDataStart s.cur s.buf s = true := fun hd => by
    rw [st_of_atDataStart hd] at h
    cases h.1
  have hcur : current s = some .eof := by
    rw [current_of_busy hr hs, if_neg hnot, if_pos ((atEofStart_iff s).2 h)]
  have hfetch : fetched s = s := if_neg hs
  simp only [step, hcur, hfetch]

theorem step_of_elsewhere (hd : ¬(s.st = .duEmit ∧ s.pos = 0 ∧ s.sum = 0)) (he : ¬(s.st = .duEof ∧ s.pos = 0)) :
    step s = .next (micro s) := by
  have hnd : ¬atDataStart s.cur s.buf s = true := fun h => by
    obtain ⟨hst, hpos, hsum, -⟩ := (atDataStart_iff ..).1 h
    exact hd ⟨hst, hpos, hsum⟩
  have hne : ¬atEofStart s = true := mt (atEofStart_iff s).1 he
  have hcur : current s = none := by rw [current_of_busy hr hs, if_neg hnd, if_neg hne]
  rw [step, hcur]

end

end Sys2Proof.Machine

section
open Sys2Proof Sys2Proof.Machine

/-- Settles O21: a ready machine stands at the word offered, which a step takes off the port. -/
theorem stepRunsTheOfferedCommand : Obligations.StepRunsTheOfferedCommand := by
  intro s w rest h ho
  have hcur : current s = some (decodeWord w) := by rw [current_of_ready h, ho]; rfl
  have hfetch : fetched s = { s with offer := rest } := by rw [fetched, if_pos h.2, ho]; rfl
  simp only [step, hcur, hfetch]

/-- Settles O22: at a record's start the machine stands at that record and nothing is taken off the port. -/
theorem stepRunsTheRecordItStandsAt : Obligations.StepRunsTheRecordItStandsAt := fun s hr =>
  ⟨fun hs hp hsum => step_of_atDataStart hr (by simp [hs]) ⟨hs, hp, hsum⟩,
    fun hs hp => step_of_atEofStart hr (by simp [hs]) ⟨hs, hp⟩⟩

/-- Settles O23: everywhere else the machine stands at no instruction. -/
theorem stepElsewhereIsAMicroStep : Obligations.StepElsewhereIsAMicroStep := by
  refine fun s hr => ⟨fun hs ho => ?_, fun hs hEmit hEof => ?_, fun hs hp => ?_, fun hs hsum => ?_⟩
  · have hready : Ready s := ⟨hr, hs⟩
    have hcur : current s = none := by rw [current_of_ready hready, ho]; rfl
    simp only [step, hcur, micro_ready_nil hready ho]
  · exact step_of_elsewhere hr hs (fun h => hEmit h.1) (fun h => hEof h.1)
  · have hbusy : s.st ≠ .idle := by obtain hs | hs := hs <;> simp [hs]
    exact step_of_elsewhere hr hbusy (fun h => hp h.2.1) (fun h => hp h.2)
  · exact step_of_elsewhere hr (by simp [hs]) (fun h => hsum h.2.2) (fun h => by simp [hs] at h)

end

/-! ### INIT and the Control pins (40_device_interface.md R90, R94; 70_reset_and_hazards.md R204) -/

namespace Sys2Proof.Machine

/-- No Control line is driven from a latch that is 0, nor about to be in INIT_CM. -/
def ControlReleased (s : State) : Prop :=
  (s.dirCe = .out → s.latCe = true) ∧ (s.dirOe = .out → s.latOe = true) ∧
    (s.st = .initCm → s.latCe = true ∧ s.latOe = true)

theorem pinOf_ne_low {d : Dir} {lat : Bool} (h : d = .out → lat = true) (known : Bool) :
    pinOf d known lat ≠ .level false := by
  cases d with
  | inp => simp [pinOf]
  | out => cases known <;> simp [pinOf, h]

theorem ControlReleased.pin_ne_low {s : State} (h : ControlReleased s) :
    pin s .ce ≠ .level false ∧ pin s .oe ≠ .level false :=
  ⟨pinOf_ne_low h.1 _, pinOf_ne_low h.2.1 _⟩

/-- INIT_CL writes 1 to both latches before INIT_CM makes the lines outputs (R94, R95). -/
theorem micro_controlReleased {s : State} (hr : s.rst = false) (hs : inInit s.st = true) (h : ControlReleased s) :
    ControlReleased (micro s) := by
  obtain ⟨hCe, hOe, hCm⟩ := h
  simp only [inInit, Bool.or_eq_true, beq_iff_eq] at hs
  obtain (((hs | hs) | hs) | hs) | hs := hs <;> rw [micro_at hr hs]
  · exact ⟨hCe, hOe, fun h => by cases h⟩
  · exact ⟨hCe, hOe, fun h => by cases h⟩
  · exact ⟨fun _ => rfl, fun _ => rfl, fun _ => ⟨rfl, rfl⟩⟩
  · exact ⟨fun _ => (hCm hs).1, fun _ => (hCm hs).2, fun h => by cases h⟩
  · exact ⟨hCe, hOe, fun h => by cases h⟩

theorem microN_init_controlReleased {s : State} (h : Ready s) (hc : ControlReleased s) (x : Addr) {n : Nat}
    (hn : n ≤ initSteps) : ControlReleased (microN n (accept .init x s)) := by
  induction n with
  | zero => exact ⟨hc.1, hc.2.1, fun h => by cases h⟩
  | succ n ih =>
    have hin : inInit (microN n (accept .init x s)).st = true := (runsTo_initEnd h x).2 n hn
    have hr : (microN n (accept .init x s)).rst = false := (microN_rst n _).trans h.1
    rw [microN_add n 1]
    exact micro_controlReleased hr hin (ih (Nat.le_of_succ_le hn))

end Sys2Proof.Machine

section
open Sys2Proof Sys2Proof.Machine

/-- Settles O26: INIT writes 1 to the Control latches before it drives the lines, so none is ever driven from a 0. -/
theorem initNeverAssertsAControlLine : Obligations.InitNeverAssertsAControlLine := by
  intro s x n h hn hdir hlat
  have hreleased : ControlReleased s :=
    ⟨fun hc => (hlat hc).1, fun ho => (hlat (hdir.trans ho)).2, fun hs => by simp [h.2] at hs⟩
  exact (microN_init_controlReleased h hreleased x hn).pin_ne_low

end

/-! ### The reference backends (20_memory.md R54) -/

namespace Sys2Proof.Machine

theorem readEnd_trace_getLast? (a : Addr) (s : State) :
    (readEnd a s).trace.getLast? = some (.rsp (.read (answerAt s 0 a))) := List.getLast?_concat

theorem readEnd_data (a : Addr) (s : State) : (readEnd a s).data = answerAt s 0 a := rfl

section
variable {s : State}

/-- The walk of `Rom(f)` sees each cell twice (20_memory.md R42, R54). -/
theorem walkByte_rom (hi : Initialised s) (h : s.backend = .rom) {n : Nat} (hn : n < 8192) :
    walkByte s n = memRead s.rom (n % 4096) := by
  rw [walkByte, answerAt_rom hi h, BitVec.toNat_ofNat, Nat.mod_eq_of_lt hn]

theorem scanResult_of_all_empty (h : ∀ n, walkByte s n = 0xFF) : scanResult s = 8192 :=
  (scanResult_le s).eq_of_not_lt fun hlt => (scanResult_hit hlt).1 (h _)

/-- A result below 8192 is below 4096: the upper half of the walk repeats the lower (41_dump_encoder.md R120 d). -/
theorem scanResult_rom (hi : Initialised s) (h : s.backend = .rom) (hlt : scanResult s < 8192) :
    scanResult s < 4096 := by
  obtain ⟨hhit, hempty⟩ := scanResult_hit hlt
  by_contra hge
  have hmod : scanResult s % 4096 = (scanResult s - 4096) % 4096 := by omega
  rw [walkByte_rom hi h hlt, hmod, ← walkByte_rom hi h (by omega)] at hhit
  exact hhit (hempty _ (by omega))

/-- Below 4096 the walk of `Rom(f)` is its cells. -/
theorem walkByte_rom_low (hi : Initialised s) (h : s.backend = .rom) {n : Nat} (hn : n < 4096) :
    walkByte s n = memRead s.rom n := by
  rw [walkByte_rom hi h (by omega), Nat.mod_eq_of_lt hn]

end

/-- A fixed backend, which answers by the address alone: `Const(v)`, or `Rom(f)` on configured lines. -/
def Fixed (s : State) : Prop := (∃ v : Byte, s.backend = .const v) ∨ (s.backend = .rom ∧ Initialised s)

theorem dumpEnd_initialised {x : Addr} {s : State} (h : Initialised s) : Initialised (dumpEnd x s) := by
  obtain ⟨hA, hD, hCe, hOe, -⟩ := h
  exact ⟨hA, hD, hCe, hOe, rfl, rfl, rfl, rfl⟩

/-- After a dump a fixed backend answers as before it. -/
theorem walkByte_dumpEnd {s : State} (h : Fixed s) (x : Addr) (n : Nat) : walkByte (dumpEnd x s) n = walkByte s n := by
  obtain ⟨v, hv⟩ | ⟨hrom, hi⟩ := h
  · rw [walkByte, walkByte, answerAt_const hv, answerAt_const (s := dumpEnd x s) hv]
  · rw [walkByte, walkByte, answerAt_rom hi hrom, answerAt_rom (dumpEnd_initialised hi) hrom]
    rfl

theorem walkChunks_congr {s t : State} (h : ∀ n, walkByte t n = walkByte s n) : walkChunks t = walkChunks s := by
  have hchunk : walkChunk t = walkChunk s := funext fun j => by simp only [walkChunk, h]
  rw [walkChunks, walkChunks, hchunk]

end Sys2Proof.Machine

section
open Sys2Proof Sys2Proof.Machine

/-- Settles O30: READ's byte is the environment's answer at its address. -/
theorem readAnswersTheBackend : Obligations.ReadAnswersTheBackend := by
  refine fun s a h => ⟨readEnd a s, exec_read h a, fun v hv => ?_, fun hrom hi => ?_⟩
  · rw [readEnd_data, readEnd_trace_getLast?, answerAt_const hv]
    exact ⟨rfl, rfl⟩
  · rw [readEnd_data, readEnd_trace_getLast?, answerAt_rom hi hrom]
    exact ⟨rfl, rfl⟩

/-- Settles O33: of `Const(0xFF)` every byte is empty; of `Rom(f)` the first byte that is not lies in the lower half,
since the upper half repeats it. -/
theorem scanOfTheReferenceBackends : Obligations.ScanOfTheReferenceBackends := by
  refine fun s x h => ⟨scanEnd x s, exec_scan h x, fun hv => ?_, fun hrom hi => ?_⟩
  · have hres : scanResult s = 8192 := scanResult_of_all_empty fun n => answerAt_const hv n _
    have hreads : scanReads s = 8192 := by rw [scanReads, hres]; rfl
    have hlast : effectiveAddr 8191 = 0xFFF := by decide
    rw [scanEnd, hreads, hres]
    exact ⟨rfl, rfl, answerAt_const hv _ _, hlast⟩
  · rw [scanEnd_res_toNat]
    obtain hlt | heq := Nat.lt_or_eq_of_le (scanResult_le s)
    · obtain ⟨hhit, hempty⟩ := scanResult_hit hlt
      have hlow : scanResult s < 4096 := scanResult_rom hi hrom hlt
      rw [walkByte_rom_low hi hrom hlow] at hhit
      refine .inl ⟨hlow, hhit, fun n hn => ?_⟩
      rw [← walkByte_rom_low hi hrom (hn.trans hlow), hempty n hn]
    · refine .inr ⟨congrArg (BitVec.ofNat 14) heq, fun n hn => ?_⟩
      rw [← walkByte_rom_low hi hrom hn, scanResult_empty heq n (by omega)]

/-- Settles O36: each dump sends the records of its walk, and a fixed backend's walk is the same again. -/
theorem dumpTwiceSendsTheSameBytes : Obligations.DumpTwiceSendsTheSameBytes := by
  intro s t u x y h ht hfixed hst htu
  obtain rfl : dumpEnd x s = t := Host.Outcome.next.inj ((exec_dump h ht x).symm.trans hst)
  have hready : Ready (dumpEnd x s) := ⟨h.1, rfl⟩
  obtain rfl : dumpEnd y (dumpEnd x s) = u := Host.Outcome.next.inj ((exec_dump hready ht y).symm.trans htu)
  refine ⟨recordsFrom 0 (walkChunks s) ++ eofText, sinkBytes_dumpEnd x s, ?_⟩
  rw [sinkBytes_dumpEnd y, walkChunks_congr (walkByte_dumpEnd hfixed x)]

/-- Settles O43: a step appends events, whatever they are. -/
theorem traceOnlyGrows : Obligations.TraceOnlyGrows := by
  intro s t h
  obtain ⟨es, htrace, -⟩ := step_appendsNoDataDrive h
  exact ⟨es, htrace⟩

end

/-! ### The records as instructions, and DUMP with the sink not ready -/

namespace Sys2Proof.Machine

/-- A record executed at its start is a run through its characters. -/
theorem runRecord_start {b : Bool} {s : State} (hr : s.rst = false) (hb : b = true) (f : Fsm) (n : Nat) :
    runRecord b f n s = runWhile (fun g => g == f) n s := by
  simp [runRecord, hr, hb]

theorem exec_data {a : Count} {b : Chunk} {s : State} (hr : s.rst = false) (hat : atDataStart a b s = true) :
    exec (.data a b) s = .next (runWhile (fun g => g == .duEmit) dataLength s) :=
  congrArg Host.Outcome.next (runRecord_start hr hat _ _)

theorem exec_eof {s : State} (hr : s.rst = false) (hat : atEofStart s = true) :
    exec .eof s = .next (runWhile (fun g => g == .duEof) eofLength s) :=
  congrArg Host.Outcome.next (runRecord_start hr hat _ _)

/-- A run that has come to a state the machine holds in stays there. -/
theorem runWhile_of_micro_eq {go : Fsm → Bool} {s : State} (h : micro s = s) (n : Nat) : runWhile go n s = s := by
  induction n with
  | zero => rfl
  | succ n ih =>
    rw [runWhile]
    split
    · rw [h, ih]
    · rfl

/-- A run that holds within its bound. -/
theorem RunsTo.runWhile_of_hold {go : Fsm → Bool} {m n : Nat} {s t : State} (h : RunsTo go n s t) (hhold : micro t = t)
    (hle : n ≤ m) : runWhile go m s = t := by
  obtain ⟨rfl, hgo⟩ := h
  obtain ⟨k, rfl⟩ := Nat.exists_eq_add_of_le hle
  rw [runWhile_microN n k hgo, runWhile_of_micro_eq hhold]

/-- The turn of the outer loop up to the record: DU_CHUNK and the sixteen reads, the sink not asked. -/
theorem runsTo_chunkRead {a : Nat} {s : State} (hr : s.rst = false) (hs : s.st = .duChunk) (ho : s.op = .dump)
    (hcur : s.cur = BitVec.ofNat 14 a) (ha : a < 8192) :
    RunsTo inProgress (1 + 16 * 14 + 1) s (chunkRead a s) := by
  have hlt : s.cur.toNat < 8192 := by rw [hcur, BitVec.toNat_ofNat]; omega
  have hcall : micro s = chunkStart s := micro_duChunk hr hs hlt
  have hreads : RunsTo inProgress (16 * 14) (chunkStart s) (reading a (chunkStart s) 16) :=
    runsTo_reading hr rfl ho hcur rfl (Nat.le_refl 16)
  have hemit : micro (reading a (chunkStart s) 16) = chunkRead a s := micro_eq_fsmStep hr
  have hgo : inProgress s.st = true := by rw [hs]; rfl
  exact ((RunsTo.one hgo hcall).trans hreads).trans (.one rfl hemit)

/-- The state of a dump at DU_EMIT before its first character. -/
def dumpHeld (x : Addr) (s : State) : State := chunkRead 0 (dumpStart x s)

theorem dumpHeld_buf (x : Addr) (s : State) : (dumpHeld x s).buf = walkChunk s 0 :=
  partChunk_chunksDone (dumpStart x s) 0

theorem dumpHeld_trace (x : Addr) (s : State) :
    (dumpHeld x s).trace = s.trace ++ [.cmd .dump x] ++ readsFrom 0 (walkBytes s 16) := by
  have hreads := readsFrom_chunksDone (dumpStart x s) 0
  have hwalk : walkBytes s 16 = (walkChunk (dumpStart x s) 0).toList := rfl
  rw [hwalk]
  exact (reading_trace 0 (chunkStart (dumpStart x s)) 16).trans (congrArg _ hreads)

section
variable {s : State} (h : Ready s) (ht : s.txReady = false)
include h ht

theorem micro_dumpHeld (x : Addr) : micro (dumpHeld x s) = dumpHeld x s := micro_hold h.1 (.inl rfl) ht

/-- With the sink not ready DUMP runs to the first character and holds (42_dispatch_and_interfaces.md R166). -/
theorem exec_dump_held (x : Addr) : exec (.dump x) s = .next (dumpHeld x s) := by
  have hinit : micro (accept .dump x s) = dumpStart x s := micro_eq_fsmStep h.1
  have hrun : RunsTo inProgress (1 + (1 + 16 * 14 + 1)) (accept .dump x s) (dumpHeld x s) :=
    (RunsTo.one rfl hinit).trans (runsTo_chunkRead (s := dumpStart x s) h.1 rfl rfl rfl (by decide))
  refine congrArg Host.Outcome.next ((runCommand_ready h .dump x dumpSteps).trans ?_)
  exact hrun.runWhile_of_hold (micro_dumpHeld h ht x) (by rw [dumpSteps_rrc]; omega)

/-- A step is the first record's execution, which holds as well. -/
theorem step_dumpHeld (x : Addr) : step (dumpHeld x s) = .next (dumpHeld x s) := by
  have hat : atDataStart (dumpHeld x s).cur (dumpHeld x s).buf (dumpHeld x s) = true :=
    (atDataStart_iff ..).2 ⟨rfl, rfl, rfl, rfl, rfl⟩
  rw [step_of_atDataStart (s := dumpHeld x s) h.1 (fun h => by cases h) ⟨rfl, rfl, rfl⟩,
    exec_data (s := dumpHeld x s) h.1 hat, runWhile_of_micro_eq (micro_dumpHeld h ht x)]

end

end Sys2Proof.Machine

section
open Sys2Proof Sys2Proof.Machine

/-- Settles O37: DUMP's run comes to the first character and goes on holding there. -/
theorem dumpHoldsOnASinkNotReady : Obligations.DumpHoldsOnASinkNotReady := fun s x h ht =>
  ⟨dumpHeld x s, exec_dump_held h ht x, rfl, rfl, rfl, dumpHeld_buf x s, dumpHeld_trace x s, step_dumpHeld h ht x⟩

/-- Settles O38: the run of the record's characters from its start. -/
theorem dataRecordCompletes : Obligations.DataRecordCompletes := by
  intro s a b hr ht hs hpos hsum hcur hbuf
  have hat : atDataStart a b s = true := (atDataStart_iff ..).2 ⟨hs, hpos, hsum, hcur, hbuf⟩
  rw [exec_data hr hat, (runsTo_dataEnd hr ht hs hpos hsum).runWhile_eq]

/-- Settles O39: the run of the end record's characters from its start. -/
theorem endRecordCompletes : Obligations.EndRecordCompletes := by
  intro s hr ht hs hpos
  have hat : atEofStart s = true := (atEofStart_iff s).2 ⟨hs, hpos⟩
  rw [exec_eof hr hat, (runsTo_eofEnd hr ht hs hpos).runWhile_eq]

end

/-! ### The clock cycles of a read (42_dispatch_and_interfaces.md R171) -/

namespace Sys2Proof.Machine

/-- A wait state reads `TMR` in no micro-step: it leaves the counter at 0. -/
theorem fsmStep_wait_tmr {s : State} (hs : waits s.st = true) (k : Nat) : fsmStep { s with tmr := k } = fsmStep s := by
  have hst : State.st { s with tmr := k } = s.st := rfl
  rw [fsmStep, fsmStep, hst]
  cases h : s.st
  case rdWaitAs | rdWaitCo | rdWaitDv | rdWaitDh | rdWaitCd => rfl
  all_goals simp [h, waits] at hs

/-- A wait state counts `TMR` down to 0 and is left in the next cycle: together its micro-step. -/
theorem cycleN_wait {s : State} {k : Nat} (hr : s.rst = false) (hs : waits s.st = true) (hk : s.tmr = k) :
    cycleN (k + 1) s = micro s := by
  induction k generalizing s with
  | zero =>
    have hleave : cycle s = micro s := by simp [cycle, hk]
    exact hleave
  | succ k ih =>
    have hcount : cycle s = { s with tmr := k } := by simp [cycle, hr, hs, hk]
    rw [cycleN_succ, hcount, ih (s := { s with tmr := k }) hr hs rfl, micro_eq_fsmStep hr]
    exact (micro_eq_fsmStep (s := { s with tmr := k }) hr).trans (fsmStep_wait_tmr hs k)

/-- `m` micro-steps from `s` take `n` clock cycles. -/
def TakesCycles (s : State) (m n : Nat) : Prop := cycleN n s = microN m s

theorem TakesCycles.trans {s : State} {m m' n n' : Nat} (h : TakesCycles s m n)
    (h' : TakesCycles (microN m s) m' n') : TakesCycles s (m + m') (n + n') := by
  rw [TakesCycles, cycleN_add, h, h', microN_add]

theorem takesCycles_one {s : State} (hs : waits s.st = false) : TakesCycles s 1 1 := cycle_eq_micro hs

/-- The wait in microseconds for which the step of an FSM state loads the counter. -/
def loadedWait : Fsm → Option Nat
  | .rdAddr | .rdCeOn | .rdSample | .rdCeOff => some 10
  | .rdOeOn => some 100
  | _ => none

theorem micro_loads_wait {s : State} {us : Nat} (hr : s.rst = false) (h : loadedWait s.st = some us) :
    0 < us ∧ waits s.st = false ∧ waits (micro s).st = true ∧ (micro s).tmr = us * Config.clkPerUs - 1 := by
  cases hs : s.st <;> rw [hs] at h <;> cases h
  all_goals
    rw [micro_at hr hs]
    exact ⟨by decide, rfl, rfl, rfl⟩

/-- A step that loads the counter takes one cycle, and the wait after it the microseconds loaded. -/
theorem takesCycles_wait {s : State} {us : Nat} (hr : s.rst = false) (h : loadedWait s.st = some us) :
    TakesCycles s 2 (us * Config.clkPerUs + 1) := by
  obtain ⟨hus, hs, hwait, hload⟩ := micro_loads_wait hr h
  have hr' : (micro s).rst = false := (micro_environment s).2.2.1.trans hr
  have hpos : 0 < us * Config.clkPerUs := Nat.mul_pos hus (Nat.succ_pos _)
  have hcycles : us * Config.clkPerUs + 1 = 1 + (us * Config.clkPerUs - 1 + 1) := by omega
  have hrest : TakesCycles (microN 1 s) 1 (us * Config.clkPerUs - 1 + 1) := cycleN_wait hr' hwait hload
  rw [hcycles]
  exact (takesCycles_one hs).trans hrest

theorem microN_read_st {s : State} (hr : s.rst = false) (hs : s.st = .rdAddr) {k : Nat} {f : Fsm}
    (hk : readStates[k]? = some f) : (microN k s).st = f := by
  rw [← readSequence_states hr hs] at hk
  obtain ⟨hlt, hf⟩ := List.getElem?_eq_some_iff.1 hk
  simpa using hf

/-- The read sequence is five waits, each with the step before it, RD_OE_OFF and RD_RET. -/
theorem takesCycles_read {s : State} (hr : s.rst = false) (hs : s.st = .rdAddr) :
    TakesCycles s 12 (140 * Config.clkPerUs + 7) := by
  have hwait {k us : Nat} {f : Fsm} (hk : readStates[k]? = some f) (h : loadedWait f = some us) :
      TakesCycles (microN k s) 2 (us * Config.clkPerUs + 1) :=
    takesCycles_wait ((microN_rst k s).trans hr) (by rw [microN_read_st hr hs hk, h])
  have hone {k : Nat} {f : Fsm} (hk : readStates[k]? = some f) (h : waits f = false) : TakesCycles (microN k s) 1 1 :=
    takesCycles_one (by rw [microN_read_st hr hs hk, h])
  have hAs : TakesCycles s 2 (10 * Config.clkPerUs + 1) := hwait (k := 0) rfl rfl
  have hCo := hAs.trans (hwait (k := 2) rfl rfl)
  have hDv := hCo.trans (hwait (k := 4) rfl rfl)
  have hDh := hDv.trans (hwait (k := 6) rfl rfl)
  have hOeOff := hDh.trans (hone (k := 8) rfl rfl)
  have hCd := hOeOff.trans (hwait (k := 9) rfl rfl)
  have hread := hCd.trans (hone (k := 11) rfl rfl)
  have hcycles : 140 * Config.clkPerUs + 7 = 10 * Config.clkPerUs + 1 + (10 * Config.clkPerUs + 1) +
      (100 * Config.clkPerUs + 1) + (10 * Config.clkPerUs + 1) + 1 + (10 * Config.clkPerUs + 1) + 1 := by omega
  rw [hcycles]
  exact hread

end Sys2Proof.Machine

section
open Sys2Proof Sys2Proof.Machine

/-- Settles O41: a wait takes its microseconds' cycles, whatever the clock rate, and every other step one. -/
theorem readLastsItsCycles : Obligations.ReadLastsItsCycles := fun _ hr hs => takesCycles_read hr hs

end

/-! ### Commands by their closed forms (40_device_interface.md R90, R97, R116; 41_dump_encoder.md R120, R130) -/

namespace Sys2Proof.Machine

/-- What a command leaves: the closed form of its big-step rule. -/
def commandEnd : Op → Addr → State → State
  | .init => initEnd
  | .read => readEnd
  | .scan => scanEnd
  | .dump => dumpEnd

/-- Every command completes in its closed form where the machine accepts it and the sink is ready. -/
theorem exec_decodeWord {s : State} (h : Ready s) (ht : s.txReady = true) (w : CmdWord) :
    exec (decodeWord w) s = .next (commandEnd (cmdOp w) (cmdAddr w) s) := by
  rw [decodeWord_eq_command]
  cases cmdOp w
  case init => exact exec_init h _
  case read => exact exec_read h _
  case scan => exact exec_scan h _
  case dump => exact exec_dump h ht _

theorem commandEnd_st (o : Op) (x : Addr) (s : State) : (commandEnd o x s).st = .idle := by
  cases o <;> rfl

/-- Every command but INIT ends with the lines as its last read left them (R116). -/
theorem commandEnd_lines {o : Op} (ho : o ≠ .init) (x : Addr) {s : State} (h : Initialised s) :
    Initialised (commandEnd o x s) ∧ (commandEnd o x s).latAKnown = true ∧
      (commandEnd o x s).latA = effectiveAddr (commandEnd o x s).addr := by
  obtain ⟨hA, hD, hCe, hOe, -⟩ := h
  cases o
  case init => exact absurd rfl ho
  all_goals exact ⟨⟨hA, hD, hCe, hOe, rfl, rfl, rfl, rfl⟩, rfl, rfl⟩

/-- `s` with the datapath registers and the latches of `g`. -/
def withDatapath (g s : State) : State :=
  { s with
    op := g.op, addr := g.addr, data := g.data, tmr := g.tmr, cur := g.cur, idx := g.idx, buf := g.buf,
    sum := g.sum, pos := g.pos, res := g.res, latA := g.latA, latCe := g.latCe, latOe := g.latOe,
    latAKnown := g.latAKnown, latCeKnown := g.latCeKnown, latOeKnown := g.latOeKnown }

section
variable (g s : State)

theorem answerAt_withDatapath (n : Nat) (a : Addr) : answerAt (withDatapath g s) n a = answerAt s n a :=
  answerAt_congr n a rfl rfl rfl rfl rfl rfl

theorem walkByte_withDatapath : walkByte (withDatapath g s) = walkByte s :=
  funext fun n => answerAt_withDatapath g s n _

theorem walkBytes_withDatapath (n : Nat) : walkBytes (withDatapath g s) n = walkBytes s n := by
  rw [walkBytes, walkBytes, walkByte_withDatapath]

theorem walkChunk_withDatapath : walkChunk (withDatapath g s) = walkChunk s := by
  funext j
  rw [walkChunk, walkChunk, walkByte_withDatapath]

theorem walkChunks_withDatapath : walkChunks (withDatapath g s) = walkChunks s := by
  rw [walkChunks, walkChunks, walkChunk_withDatapath]

theorem scanResult_withDatapath : scanResult (withDatapath g s) = scanResult s := by
  unfold scanResult
  rw [walkByte_withDatapath]

theorem scanReads_withDatapath : scanReads (withDatapath g s) = scanReads s := by
  rw [scanReads, scanReads, scanResult_withDatapath]

/-- INIT writes `OP`, the directions and the Control latches. -/
theorem initEnd_withDatapath (x : Addr) :
    initEnd x (withDatapath g s) =
      { initEnd x s with
        addr := g.addr, data := g.data, tmr := g.tmr, cur := g.cur, idx := g.idx, buf := g.buf, sum := g.sum,
        pos := g.pos, res := g.res, latA := g.latA, latAKnown := g.latAKnown } := rfl

/-- READ writes all but the Dump Encoder's registers. -/
theorem readEnd_withDatapath (a : Addr) :
    readEnd a (withDatapath g s) =
      { readEnd a s with
        cur := g.cur, idx := g.idx, buf := g.buf, sum := g.sum, pos := g.pos, res := g.res } := by
  rw [readEnd, afterReads, answerAt_withDatapath]
  rfl

/-- SCAN writes all but the registers of a chunk and its record. -/
theorem scanEnd_withDatapath (x : Addr) :
    scanEnd x (withDatapath g s) =
      { scanEnd x s with idx := g.idx, buf := g.buf, sum := g.sum, pos := g.pos } := by
  rw [scanEnd, afterReads, scanReads_withDatapath, scanResult_withDatapath, walkBytes_withDatapath,
    answerAt_withDatapath]
  rfl

/-- DUMP writes all but SCAN's result. -/
theorem dumpEnd_withDatapath (x : Addr) :
    dumpEnd x (withDatapath g s) = { dumpEnd x s with res := g.res } := by
  rw [dumpEnd, afterReads, walkChunk_withDatapath, walkChunks_withDatapath, answerAt_withDatapath]
  rfl

end

end Sys2Proof.Machine

section
open Sys2Proof Sys2Proof.Machine

/-- Settles O47: the closed forms name both Control latches, and the Address latches with `ADDR`. -/
theorem linesAtRest : Obligations.LinesAtRest := by
  refine fun s w h ht => ⟨_, exec_decodeWord h ht w, commandEnd_st _ _ s, fun ho => ?_, fun ho hi =>
    commandEnd_lines ho _ hi⟩
  rw [ho]
  exact ⟨⟨rfl, rfl, rfl, rfl, rfl, rfl, rfl, rfl⟩, rfl⟩

/-- Settles O48: the answers depend on the environment alone, and each closed form keeps of the registers only those
its command does not write. -/
theorem commandsReadNothingUnwritten : Obligations.CommandsReadNothingUnwritten := by
  intro s g t u w h ht hst hsu
  have hready : Ready (withDatapath g s) := h
  obtain rfl : commandEnd (cmdOp w) (cmdAddr w) s = t := Host.Outcome.next.inj ((exec_decodeWord h ht w).symm.trans hst)
  obtain rfl : commandEnd (cmdOp w) (cmdAddr w) (withDatapath g s) = u :=
    Host.Outcome.next.inj ((exec_decodeWord hready ht w).symm.trans hsu)
  cases cmdOp w
  case init =>
    rw [commandEnd, initEnd_withDatapath]
    exact ⟨rfl, rfl, rfl, rfl, rfl, rfl, rfl, rfl, rfl, rfl, rfl, rfl, absurd rfl, nofun, nofun⟩
  case read =>
    rw [commandEnd, readEnd_withDatapath]
    exact ⟨rfl, rfl, rfl, rfl, rfl, rfl, rfl, rfl, rfl, rfl, rfl, rfl,
      fun _ => ⟨rfl, rfl, rfl, rfl, rfl, fun l => by cases l <;> rfl⟩, nofun, nofun⟩
  case scan =>
    rw [commandEnd, scanEnd_withDatapath]
    exact ⟨rfl, rfl, rfl, rfl, rfl, rfl, rfl, rfl, rfl, rfl, rfl, rfl,
      fun _ => ⟨rfl, rfl, rfl, rfl, rfl, fun l => by cases l <;> rfl⟩, fun _ => ⟨rfl, rfl⟩, nofun⟩
  case dump =>
    rw [commandEnd, dumpEnd_withDatapath]
    exact ⟨rfl, rfl, rfl, rfl, rfl, rfl, rfl, rfl, rfl, rfl, rfl, rfl,
      fun _ => ⟨rfl, rfl, rfl, rfl, rfl, fun l => by cases l <;> rfl⟩, nofun, fun _ => ⟨rfl, rfl, rfl, rfl, rfl⟩⟩

end
